-- ==== Sys2Proof/Config.lean ====
section
/-! DEFINITION. The parameters of the engine (spec/00_scope.md rules R5 to R7) and the free values: what the spec
leaves open and the model does not choose. -/

namespace Sys2Proof.Config

/-- CFG_W, the width of each of the four configuration ports (R7, 92_eei_decisions.md D3). Log entry 12. -/
abbrev CFG_W : Nat := 32

/-- CNT_W, the width of STEP, WCNT and NCNT (R7, D20). -/
abbrev CNT_W : Nat := CFG_W - 1

/-- REC_W, the width of the binary Step Record (R7, 90_conflicts.md C11). -/
abbrev REC_W : Nat := 60 + CNT_W

/-- KEY_W, the width of the key Kc, and so the number of load_Kc steps (R5). -/
abbrev KEY_W : Nat := 16

/-- FRAME_W, the width of the frame value FN, and so the number of load_FN steps (R5). -/
abbrev FRAME_W : Nat := 8

/-- FREE VALUE (log entry 5). `KeyBit(s)` is stated for s in 1 .. 16 only (R42); this is the bit a load_Kc step takes for
any other STEP. No run of the sequencer asks for it (R46). -/
opaque keyBitOutside : BitVec 16 → BitVec 31 → Bool

/-- FREE VALUE (log entry 5). `FrameBit(s)` is stated for s in 1 .. 8 only (R43); this is the bit for any other STEP. -/
opaque frameBitOutside : BitVec 8 → BitVec 31 → Bool

/-- FREE VALUE (log entry 6). STEP + 1 when the 31-bit STEP is at its top: "It never wraps" (R16, R88), so the spec states
no result there. -/
opaque stepPastTop : BitVec 31

/-- OPEN PARAMETER (log entry 13). NA_MARK, the text of a non-applicable field in a tabular export (R7, R158, D17): the spec
requires an explicit marker and fixes no spelling. -/
opaque naMark : List Char

end Sys2Proof.Config
end

