-- ==== Sys2Proof/Word.lean ====
section
/-! DEFINITION. The word types of the engine: the widths of its registers, ports and encodings (spec/00_scope.md R5, R7 and R8).
Bit k of the spec, 0 the least significant, is `getLsbD k`; D0's MSB-first array index k is `getMsbD k` (R8). -/

namespace Sys2Proof

/-- The register X, 5 bits (R10). -/
abbrev XReg := BitVec 5
/-- The register Y, 6 bits (R11). -/
abbrev YReg := BitVec 6
/-- The register Z, 7 bits (R12). -/
abbrev ZReg := BitVec 7
/-- The latched key KC, 16 bits (R24). -/
abbrev KeyWord := BitVec 16
/-- The latched frame value FN, 8 bits (R25). -/
abbrev FrameWord := BitVec 8
/-- STEP, WCNT and NCNT: CNT_W = 31 bits, unsigned (R16, R26, R27). -/
abbrev Count := BitVec 31
/-- One configuration port, CFG_W = 32 bits (R20 to R23). -/
abbrev CfgWord := BitVec 32
/-- The binary Step Record on `trace_rec`, REC_W = 91 bits (R160). -/
abbrev RecWord := BitVec 91

/-- Three like things, one for each of X, Y and Z (the three feedback bits, the three clock enables, ...). -/
structure Tri (α : Type) where
  x : α
  y : α
  z : α
  deriving DecidableEq, Repr

/-- The Cipher State: the triple (X, Y, Z) (R13). Widths never change (R14). -/
structure Cipher where
  x : XReg
  y : YReg
  z : ZReg
  deriving DecidableEq, Repr

/-- All-zero registers (R30, R100). -/
def Cipher.zero : Cipher := { x := 0#5, y := 0#6, z := 0#7 }

end Sys2Proof
end

