-- ==== Sys2Proof/Machine/Datapath.lean ====
section
/-! DEFINITION. The combinational functions (spec/40_datapath_functions.md): feedback, clock control, majority, enables, shift and
output. Bit k of a register is `getLsbD k`, 0 the least significant (R8). -/

namespace Sys2Proof.Machine

/-- `fbX(X) = X[3] ^ X[1]` (R80). -/
def fbX (x : XReg) : Bool := x.getLsbD 3 ^^ x.getLsbD 1

/-- `fbY(Y) = Y[4] ^ Y[0]` (R81). -/
def fbY (y : YReg) : Bool := y.getLsbD 4 ^^ y.getLsbD 0

/-- `fbZ(Z) = Z[5] ^ Z[4] ^ Z[0]` (R82). -/
def fbZ (z : ZReg) : Bool := z.getLsbD 5 ^^ z.getLsbD 4 ^^ z.getLsbD 0

/-- `ckX(X) = X[1]` (R83). -/
def ckX (x : XReg) : Bool := x.getLsbD 1

/-- `ckY(Y) = Y[2]` (R83). -/
def ckY (y : YReg) : Bool := y.getLsbD 2

/-- `ckZ(Z) = Z[3]` (R83). -/
def ckZ (z : ZReg) : Bool := z.getLsbD 3

/-- The majority of three bits (R84). -/
def maj (a b c : Bool) : Bool := (a && b) || (a && c) || (b && c)

/-- `shift_n(R, j) = { R[n-2:0], j }`: drop the most significant bit, append j at the least significant end (R85). -/
def shiftIn {n : Nat} (r : BitVec n) (j : Bool) : BitVec n := (r.concat j).setWidth n

/-- The output bit, of the registers after the step (R87). -/
def outBit (c : Cipher) : Bool := c.x.getLsbD 4 ^^ c.y.getLsbD 5 ^^ c.z.getLsbD 6

/-- The three feedback bits of a cipher state. -/
def feedback (c : Cipher) : Tri Bool := { x := fbX c.x, y := fbY c.y, z := fbZ c.z }

/-- The three clock-control bits of a cipher state. -/
def clockControl (c : Cipher) : Tri Bool := { x := ckX c.x, y := ckY c.y, z := ckZ c.z }

/-- The majority of a cipher state's clock-control bits. -/
def majority (c : Cipher) : Bool := maj (ckX c.x) (ckY c.y) (ckZ c.z)

/-- The three clock enables: a register is clocked iff its clock-control bit equals the majority (R86). -/
def enables (c : Cipher) : Tri Bool :=
  { x := ckX c.x == majority c, y := ckY c.y == majority c, z := ckZ c.z == majority c }

/-- How many registers an irregular step clocks: always 2 or 3 (R86, 90_conflicts.md C3). -/
def clockedCount (c : Cipher) : Nat := (enables c).x.toNat + (enables c).y.toNat + (enables c).z.toNat

end Sys2Proof.Machine
end

