-- ==== Sys2Proof/Syntax.lean ====
section
/-! DEFINITION. The syntax of the engine: the eleven rows of spec/opcode_table.json, and the named values of its formats
(spec/30_encoding.md section 1): format M's sequencer states, format E's error codes, the Step Record of format REC, and the
pseudo-instruction `run`. -/

namespace Sys2Proof

/-- The two instruction formats of the opcode table (spec/30_encoding.md section 1): M is the 3-bit value of SEQ, H the pair
`{rst, start}` sampled on a clock edge. They are two separate code spaces (log entry 3). -/
inductive Format where
  | m
  | h
  deriving DecidableEq, Repr

/-- Every row of spec/opcode_table.json. The eight format-M codes take no encoded operand: the serial bit of the two load
operations is fetched from KC or FN by STEP (R64). -/
inductive Instr where
  /-- IDLE, code 0 (R136). -/
  | idle
  /-- INIT, code 1 (R100). -/
  | init
  /-- LOAD_KC, code 2 (R101). -/
  | loadKc
  /-- LOAD_FN, code 3 (R102). -/
  | loadFn
  /-- WARMUP, code 4 (R103). -/
  | warmup
  /-- KEYSTREAM, code 5 (R104). -/
  | keystream
  /-- DONE, code 6 (R136). -/
  | done
  /-- ERROR, code 7 (R136). -/
  | error
  /-- RESET, `{rst, start}` = 1s (R200). `start` is the row's bit s, sampled and ignored (log entry 17). -/
  | reset (start : Bool)
  /-- START, `{rst, start}` = 01 (R121). Its operands are the four configuration ports. -/
  | start
  /-- NONE, `{rst, start}` = 00: no host operation, the sequencer proceeds by itself (R130). -/
  | hostNone
  deriving DecidableEq, Repr

/-- The eight values of SEQ (R15). All eight codes of format M are assigned (R67). -/
inductive Seq where
  | idle
  | init
  | loadKc
  | loadFn
  | warmup
  | keystream
  | done
  | error
  deriving DecidableEq, Repr

/-- The two configuration errors, the engine's only exceptions (R170, R171). -/
inductive ConfigError where
  | valueTooWide
  | invalidCycleCount
  deriving DecidableEq, Repr

/-- The values of ERR (R18, R62). Code 3 is reserved and never produced, and a model should not give it a meaning (R67). -/
inductive ErrCode where
  | noError
  | valueTooWide
  | invalidCycleCount
  deriving DecidableEq, Repr

/-- The five phase labels of a Step Record (R150, R69). -/
inductive Phase where
  | init
  | loadKc
  | loadFn
  | warmup
  | keystream
  deriving DecidableEq, Repr

/-- Where the external bit of a load cycle came from (R153). NA is `none` of the optional field. -/
inductive InSrc where
  | kc
  | fn
  deriving DecidableEq, Repr

/-- A Step Record: the 21 fields of R150 in D0's order. NA is `none`, a value distinct from 0 and from 1 (R151). `step` is an
integer (R150); its binary form is 31 bits (R160). -/
structure StepRecord where
  phase : Phase
  step  : Nat
  inSrc : Option InSrc
  inBit : Option Bool
  preX  : XReg
  preY  : YReg
  preZ  : ZReg
  fbX   : Option Bool
  fbY   : Option Bool
  fbZ   : Option Bool
  ckX   : Option Bool
  ckY   : Option Bool
  ckZ   : Option Bool
  maj   : Option Bool
  injX  : Option Bool
  injY  : Option Bool
  injZ  : Option Bool
  postX : XReg
  postY : YReg
  postZ : ZReg
  out   : Option Bool
  deriving DecidableEq, Repr

/-- The pre-step registers of a record. -/
def StepRecord.pre (r : StepRecord) : Cipher := { x := r.preX, y := r.preY, z := r.preZ }

/-- The post-step registers of a record. -/
def StepRecord.post (r : StepRecord) : Cipher := { x := r.postX, y := r.postY, z := r.postZ }

/-- The operands of the pseudo-instruction `run` (R71) and of the function `Run` (R138): over the integers, of any size. A key
or a frame value is never negative (R20, R21, D19; log entry 18). -/
structure RunConfig where
  key          : Nat
  frame        : Nat
  warmupCycles : Int
  keystreamBits : Int
  deriving DecidableEq, Repr

/-- The defaults of D0's entry point; the hardware has none, and "a model that offers defaults uses these four" (R6). -/
def RunConfig.default : RunConfig :=
  { key := 0xBEEF, frame := 0x3A, warmupCycles := 10, keystreamBits := 8 }

end Sys2Proof
end

