-- ==== Sys2Proof/Machine/Advance.lean ====
section
/-! DEFINITION. The state-transition primitive `advance` (spec/41_advance_ops.md R105 to R107) and the Step Record of each
micro-operation (R100 to R104, R152). -/

namespace Sys2Proof.Machine

/-- What the load-mode transition gives (R105). -/
structure LoadResult where
  next : Cipher
  fb   : Tri Bool
  inj  : Tri Bool
  deriving DecidableEq, Repr

/-- `AdvLoad(X, Y, Z, b)`: all three registers are shifted, each with its own feedback bit xor the one external bit (R105). -/
def advLoad (c : Cipher) (b : Bool) : LoadResult :=
  let fb := feedback c
  let inj : Tri Bool := { x := fb.x ^^ b, y := fb.y ^^ b, z := fb.z ^^ b }
  { next := { x := shiftIn c.x inj.x, y := shiftIn c.y inj.y, z := shiftIn c.z inj.z }, fb := fb, inj := inj }

/-- What the irregular transition gives (R106). An injected bit is NA where the register is not clocked. -/
structure IrrResult where
  next : Cipher
  fb   : Tri Bool
  ck   : Tri Bool
  maj  : Bool
  inj  : Tri (Option Bool)
  deriving DecidableEq, Repr

/-- A register of an irregular step: shifted with its feedback bit when clocked, else unchanged (R106). -/
def clocked {n : Nat} (en : Bool) (r : BitVec n) (fb : Bool) : BitVec n := if en then shiftIn r fb else r

/-- The injected field of an irregular step: the feedback bit when clocked, else NA (R106). -/
def injected (en fb : Bool) : Option Bool := if en then some fb else none

/-- `AdvIrr(X, Y, Z)`: each register whose clock-control bit equals the majority is shifted with its own feedback bit; there is
no external input (R106). All bits are taken from the registers before the step (D25). -/
def advIrr (c : Cipher) : IrrResult :=
  let fb := feedback c
  let en := enables c
  { next := { x := clocked en.x c.x fb.x, y := clocked en.y c.y fb.y, z := clocked en.z c.z fb.z }
    fb := fb, ck := clockControl c, maj := majority c
    inj := { x := injected en.x fb.x, y := injected en.y fb.y, z := injected en.z fb.z } }

/-- The init record: step 1, every optional field NA, pre- and post-step registers all zero whatever the registers held (R100). -/
def initRecord : StepRecord :=
  { phase := .init, step := 1, inSrc := none, inBit := none, preX := 0#5, preY := 0#6, preZ := 0#7,
    fbX := none, fbY := none, fbZ := none, ckX := none, ckY := none, ckZ := none, maj := none,
    injX := none, injY := none, injZ := none, postX := 0#5, postY := 0#6, postZ := 0#7, out := none }

/-- The record of a load step with external bit `b` (R101, R102): the clock-control bits are carried although load mode does not
use them, and the majority is NA (D11). -/
def loadRecord (ph : Phase) (src : InSrc) (step : Nat) (b : Bool) (c : Cipher) : StepRecord :=
  let a := advLoad c b
  { phase := ph, step := step, inSrc := some src, inBit := some b, preX := c.x, preY := c.y, preZ := c.z,
    fbX := some a.fb.x, fbY := some a.fb.y, fbZ := some a.fb.z,
    ckX := some (ckX c.x), ckY := some (ckY c.y), ckZ := some (ckZ c.z), maj := none,
    injX := some a.inj.x, injY := some a.inj.y, injZ := some a.inj.z,
    postX := a.next.x, postY := a.next.y, postZ := a.next.z, out := none }

/-- The record of an irregular step (R103, R104); `out` is NA in warm-up and the output bit in keystream. -/
def irrRecord (ph : Phase) (step : Nat) (c : Cipher) (out : Option Bool) : StepRecord :=
  let a := advIrr c
  { phase := ph, step := step, inSrc := none, inBit := none, preX := c.x, preY := c.y, preZ := c.z,
    fbX := some a.fb.x, fbY := some a.fb.y, fbZ := some a.fb.z,
    ckX := some a.ck.x, ckY := some a.ck.y, ckZ := some a.ck.z, maj := some a.maj,
    injX := a.inj.x, injY := a.inj.y, injZ := a.inj.z,
    postX := a.next.x, postY := a.next.y, postZ := a.next.z, out := out }

/-- The output bit of a keystream step from cipher state `c`: from the registers after the step (R104, R87). -/
def keystreamBit (c : Cipher) : Bool := outBit (advIrr c).next

end Sys2Proof.Machine
end

