-- ==== Sys2Proof/WellFormed.lean ====
section
/-! DEFINITION. Well-formed terms. An instruction has no operand that could be out of range (R67: no unassigned code, R64: no
encoded operand), so every term of `Instr` is well formed; a Step Record has one check for each column of R152. -/

namespace Sys2Proof

/-- Every instruction is well formed: all eight codes of format M and all four pairs of format H are assigned (R61, R67). -/
def Instr.wf : Instr → Bool
  | .idle => true
  | .init => true
  | .loadKc => true
  | .loadFn => true
  | .warmup => true
  | .keystream => true
  | .done => true
  | .error => true
  | .reset _ => true
  | .start => true
  | .hostNone => true

/-- `step` is 1-based (R150), and the single init record has step 1 (R154). -/
def StepRecord.stepOk (r : StepRecord) : Bool :=
  match r.phase with
  | .init => r.step == 1
  | .loadKc | .loadFn | .warmup | .keystream => decide (1 ≤ r.step)

/-- R152, column `in_src`, `in_bit`. -/
def StepRecord.inputOk (r : StepRecord) : Bool :=
  match r.phase with
  | .loadKc => r.inSrc == some .kc && r.inBit.isSome
  | .loadFn => r.inSrc == some .fn && r.inBit.isSome
  | .init | .warmup | .keystream => r.inSrc.isNone && r.inBit.isNone

/-- R152, column `fb_*`. -/
def StepRecord.fbOk (r : StepRecord) : Bool :=
  match r.phase with
  | .init => r.fbX.isNone && r.fbY.isNone && r.fbZ.isNone
  | .loadKc | .loadFn | .warmup | .keystream => r.fbX.isSome && r.fbY.isSome && r.fbZ.isSome

/-- R152, column `ck_*`. -/
def StepRecord.ckOk (r : StepRecord) : Bool :=
  match r.phase with
  | .init => r.ckX.isNone && r.ckY.isNone && r.ckZ.isNone
  | .loadKc | .loadFn | .warmup | .keystream => r.ckX.isSome && r.ckY.isSome && r.ckZ.isSome

/-- R152, column `maj`. -/
def StepRecord.majOk (r : StepRecord) : Bool :=
  match r.phase with
  | .init | .loadKc | .loadFn => r.maj.isNone
  | .warmup | .keystream => r.maj.isSome

/-- R152, column `inj_*`: all NA, all bits, or a bit exactly where the clock-control bit equals the majority. -/
def StepRecord.injOk (r : StepRecord) : Bool :=
  match r.phase with
  | .init => r.injX.isNone && r.injY.isNone && r.injZ.isNone
  | .loadKc | .loadFn => r.injX.isSome && r.injY.isSome && r.injZ.isSome
  | .warmup | .keystream =>
    r.injX.isSome == (r.ckX == r.maj) && r.injY.isSome == (r.ckY == r.maj) && r.injZ.isSome == (r.ckZ == r.maj)

/-- R152, column `out`. -/
def StepRecord.outOk (r : StepRecord) : Bool :=
  match r.phase with
  | .init | .loadKc | .loadFn | .warmup => r.out.isNone
  | .keystream => r.out.isSome

/-- A record with a value exactly in the optional fields its phase gives one (R152). -/
def StepRecord.wf (r : StepRecord) : Bool :=
  r.stepOk && r.inputOk && r.fbOk && r.ckOk && r.majOk && r.injOk && r.outOk

end Sys2Proof
end

