-- ==== Sys2Proof/Decode.lean ====
section
/-! DEFINITION. Decoding and encoding (spec/30_encoding.md, spec/43_trace.md R160): formats M and H from the rows of the opcode
table, format E, and format REC, the 91-bit binary Step Record. -/

namespace Sys2Proof

/-- What a decoder answers: a value, or a rejection by name. -/
inductive Decoded (α ρ : Type) where
  | ok (a : α)
  | rejected (r : ρ)
  deriving DecidableEq, Repr

/-- Why a word is no instruction. -/
inductive DecodeReject where
  /-- The word has a bit set above the width of its format. -/
  | tooWide
  /-- No row of the table matches: never answered, since every code of both formats is assigned (R61, R67). -/
  | unassigned
  deriving DecidableEq, Repr

/-! ## Formats M and H -/

/-- The width of a format in bits (spec/30_encoding.md section 1). -/
def Format.width : Format → Nat
  | .m => 3
  | .h => 2

/-- One row of spec/opcode_table.json: a word of the format belongs to the row when its bits under the mask are the pattern. -/
structure OpcodeRow where
  format  : Format
  mask    : Nat
  pattern : Nat
  make    : Nat → Instr

/-- Is `w`, as a word of format `f`, one of the row's words? -/
def OpcodeRow.hit (r : OpcodeRow) (f : Format) (w : Nat) : Bool :=
  r.format == f && (w &&& r.mask) == r.pattern

/-- spec/opcode_table.json, row by row: format M by R60, format H by R61 (bit 1 = rst, bit 0 = start). -/
def opcodeTable : List OpcodeRow :=
  [ { format := .m, mask := 0x7, pattern := 0x0, make := fun _ => .idle },
    { format := .m, mask := 0x7, pattern := 0x1, make := fun _ => .init },
    { format := .m, mask := 0x7, pattern := 0x2, make := fun _ => .loadKc },
    { format := .m, mask := 0x7, pattern := 0x3, make := fun _ => .loadFn },
    { format := .m, mask := 0x7, pattern := 0x4, make := fun _ => .warmup },
    { format := .m, mask := 0x7, pattern := 0x5, make := fun _ => .keystream },
    { format := .m, mask := 0x7, pattern := 0x6, make := fun _ => .done },
    { format := .m, mask := 0x7, pattern := 0x7, make := fun _ => .error },
    { format := .h, mask := 0x2, pattern := 0x2, make := fun w => .reset (w.testBit 0) },
    { format := .h, mask := 0x3, pattern := 0x1, make := fun _ => .start },
    { format := .h, mask := 0x3, pattern := 0x0, make := fun _ => .hostNone } ]

/-- The instruction of a word of a format; total on every number. -/
def decode (f : Format) (w : Nat) : Decoded Instr DecodeReject :=
  if w < 2 ^ f.width then
    match opcodeTable.find? (fun r => r.hit f w) with
    | some r => .ok (r.make w)
    | none => .rejected .unassigned
  else .rejected .tooWide

/-- The format of an instruction's word. -/
def Instr.format : Instr → Format
  | .idle => .m
  | .init => .m
  | .loadKc => .m
  | .loadFn => .m
  | .warmup => .m
  | .keystream => .m
  | .done => .m
  | .error => .m
  | .reset _ => .h
  | .start => .h
  | .hostNone => .h

/-- The word of an instruction, in its format (R60, R61). -/
def encode : Instr → Nat
  | .idle => 0b000
  | .init => 0b001
  | .loadKc => 0b010
  | .loadFn => 0b011
  | .warmup => 0b100
  | .keystream => 0b101
  | .done => 0b110
  | .error => 0b111
  | .reset start => 0b10 + start.toNat
  | .start => 0b01
  | .hostNone => 0b00

/-- The format that a word of `nbits` table bits is read in (log entry 3): 2 bits are the pair `{rst, start}` of format H, three
bits or a whole byte are a micro-operation code of format M. The two formats are separate code spaces with overlapping numbers,
and the number of bits is all there is to tell them apart. -/
def tableFormat (nbits : Nat) : Option Format :=
  if nbits < 2 then none else if nbits = 2 then some .h else some .m

/-- The instruction read from a word of the opcode table. -/
def decodeTableWord (nbits w : Nat) : Option Instr :=
  match tableFormat nbits with
  | none => none
  | some f =>
    match decode f w with
    | .ok i => some i
    | .rejected _ => none

/-! ## Codes of the named values -/

/-- The 3-bit code of a sequencer state, on the `seq` port (R60). -/
def Seq.code : Seq → BitVec 3
  | .idle => 0b000#3
  | .init => 0b001#3
  | .loadKc => 0b010#3
  | .loadFn => 0b011#3
  | .warmup => 0b100#3
  | .keystream => 0b101#3
  | .done => 0b110#3
  | .error => 0b111#3

/-- The sequencer state that a format-M instruction is the code of; a host operation is none. -/
def Instr.seq? : Instr → Option Seq
  | .idle => some .idle
  | .init => some .init
  | .loadKc => some .loadKc
  | .loadFn => some .loadFn
  | .warmup => some .warmup
  | .keystream => some .keystream
  | .done => some .done
  | .error => some .error
  | .reset _ => none
  | .start => none
  | .hostNone => none

/-- The word of format H: rst in bit 1, start in bit 0 (R61). -/
def hostWord (rst start : Bool) : Nat := 2 * rst.toNat + start.toNat

/-- The 2-bit code on the `err` port (R62). Code 3 is never produced. -/
def ErrCode.code : ErrCode → BitVec 2
  | .noError => 0b00#2
  | .valueTooWide => 0b01#2
  | .invalidCycleCount => 0b10#2

/-- The value ERR takes for an error kind: `code(E)` of R173. -/
def ConfigError.errCode : ConfigError → ErrCode
  | .valueTooWide => .valueTooWide
  | .invalidCycleCount => .invalidCycleCount

/-- The sequencer state of a phase: the five labels correspond one to one to the executing states (R15). -/
def Phase.seq : Phase → Seq
  | .init => .init
  | .loadKc => .loadKc
  | .loadFn => .loadFn
  | .warmup => .warmup
  | .keystream => .keystream

/-- The phase of a sequencer state; the three non-executing states have none (R15, R17). -/
def Seq.phase? : Seq → Option Phase
  | .idle => none
  | .init => some .init
  | .loadKc => some .loadKc
  | .loadFn => some .loadFn
  | .warmup => some .warmup
  | .keystream => some .keystream
  | .done => none
  | .error => none

/-! ## Format REC: the binary Step Record (R160) -/

/-- One bit as a 1-bit vector. -/
def bit1 (b : Bool) : BitVec 1 := BitVec.ofBool b

/-- The valid bit of an optional field. -/
def validBit {α : Type} (o : Option α) : BitVec 1 := bit1 o.isSome

/-- The value bit of an optional bit: 0 when it is NA (R160). -/
def valueBit (o : Option Bool) : BitVec 1 := bit1 (o.getD false)

/-- The 2-bit code of `in_src` (R153): 0 NA, 1 Kc, 2 FN. -/
def inSrcCode : Option InSrc → BitVec 2
  | none => 0b00#2
  | some .kc => 0b01#2
  | some .fn => 0b10#2

/-- A field of the record, its least significant bit at bit `lo`. -/
def fieldAt {n : Nat} (lo : Nat) (v : BitVec n) : RecWord := v.setWidth 91 <<< lo

/-- The 91-bit record, field by field as R160 lists them. -/
def packRecord (r : StepRecord) : RecWord :=
  fieldAt 0 r.phase.seq.code
    ||| fieldAt 3 (BitVec.ofNat 31 r.step)
    ||| fieldAt 34 (inSrcCode r.inSrc) ||| fieldAt 36 (valueBit r.inBit)
    ||| fieldAt 37 r.preX ||| fieldAt 42 r.preY ||| fieldAt 48 r.preZ
    ||| fieldAt 55 (validBit r.fbX) ||| fieldAt 56 (valueBit r.fbX) ||| fieldAt 57 (valueBit r.fbY) ||| fieldAt 58 (valueBit r.fbZ)
    ||| fieldAt 59 (validBit r.ckX) ||| fieldAt 60 (valueBit r.ckX) ||| fieldAt 61 (valueBit r.ckY) ||| fieldAt 62 (valueBit r.ckZ)
    ||| fieldAt 63 (validBit r.maj) ||| fieldAt 64 (valueBit r.maj)
    ||| fieldAt 65 (validBit r.injX) ||| fieldAt 66 (valueBit r.injX)
    ||| fieldAt 67 (validBit r.injY) ||| fieldAt 68 (valueBit r.injY)
    ||| fieldAt 69 (validBit r.injZ) ||| fieldAt 70 (valueBit r.injZ)
    ||| fieldAt 71 r.postX ||| fieldAt 76 r.postY ||| fieldAt 82 r.postZ
    ||| fieldAt 89 (validBit r.out) ||| fieldAt 90 (valueBit r.out)

/-- Why a 91-bit word is no Step Record. -/
inductive RecordReject where
  /-- The phase code is not 1 .. 5 (R160: phase code 0 is not a record; codes 6 and 7 execute nothing). -/
  | notAPhase
  /-- `in_src` code 3, reserved and never produced (R153, R67). -/
  | reservedSource
  /-- A value bit is 1 under a valid bit (or an `in_src`) that says NA (R160). -/
  | valueUnderNA
  /-- The optional fields present are not those of the phase (R152, R154). -/
  | wrongFields
  deriving DecidableEq, Repr

/-- The phase of a record's phase code. -/
def phaseOfCode (c : BitVec 3) : Option Phase :=
  if c = 1#3 then some .init
  else if c = 2#3 then some .loadKc
  else if c = 3#3 then some .loadFn
  else if c = 4#3 then some .warmup
  else if c = 5#3 then some .keystream
  else none

/-- The source of an `in_src` code; code 3 is answered as NA here and refused by `unpackRecord`. -/
def inSrcOfCode (c : BitVec 2) : Option InSrc :=
  if c = 1#2 then some .kc else if c = 2#2 then some .fn else none

/-- An optional bit from its valid and its value bit. -/
def optBit (valid value : Bool) : Option Bool := if valid then some value else none

/-- The fields of a 91-bit word, bit positions as R160 lists them; the phase is given. -/
def recordFields (ph : Phase) (w : RecWord) : StepRecord :=
  { phase := ph
    step  := (w.extractLsb' 3 31).toNat
    inSrc := inSrcOfCode (w.extractLsb' 34 2)
    inBit := optBit (w.extractLsb' 34 2 != 0#2) (w.getLsbD 36)
    preX  := w.extractLsb' 37 5
    preY  := w.extractLsb' 42 6
    preZ  := w.extractLsb' 48 7
    fbX   := optBit (w.getLsbD 55) (w.getLsbD 56)
    fbY   := optBit (w.getLsbD 55) (w.getLsbD 57)
    fbZ   := optBit (w.getLsbD 55) (w.getLsbD 58)
    ckX   := optBit (w.getLsbD 59) (w.getLsbD 60)
    ckY   := optBit (w.getLsbD 59) (w.getLsbD 61)
    ckZ   := optBit (w.getLsbD 59) (w.getLsbD 62)
    maj   := optBit (w.getLsbD 63) (w.getLsbD 64)
    injX  := optBit (w.getLsbD 65) (w.getLsbD 66)
    injY  := optBit (w.getLsbD 67) (w.getLsbD 68)
    injZ  := optBit (w.getLsbD 69) (w.getLsbD 70)
    postX := w.extractLsb' 71 5
    postY := w.extractLsb' 76 6
    postZ := w.extractLsb' 82 7
    out   := optBit (w.getLsbD 89) (w.getLsbD 90) }

/-- The pairs (valid bit, value bit) of R160 that hold one optional bit each. -/
def validValuePairs : List (Nat × Nat) :=
  [(55, 56), (55, 57), (55, 58), (59, 60), (59, 61), (59, 62), (63, 64), (65, 66), (67, 68), (69, 70), (89, 90)]

/-- Every value bit is 0 where its valid bit is 0, and `in_bit` is 0 where `in_src` is 0 (R160). -/
def naBitsClear (w : RecWord) : Bool :=
  validValuePairs.all (fun p => w.getLsbD p.1 || !w.getLsbD p.2) && (w.extractLsb' 34 2 != 0#2 || !w.getLsbD 36)

/-- The Step Record of a 91-bit word; total, rejecting by name. -/
def unpackRecord (w : RecWord) : Decoded StepRecord RecordReject :=
  match phaseOfCode (w.extractLsb' 0 3) with
  | none => .rejected .notAPhase
  | some ph =>
    if w.extractLsb' 34 2 = 3#2 then .rejected .reservedSource
    else if naBitsClear w then
      if (recordFields ph w).wf then .ok (recordFields ph w) else .rejected .wrongFields
    else .rejected .valueUnderNA

end Sys2Proof
end

