-- ==== Sys2Proof/Machine/State.lean ====
section
/-! DEFINITION. The state of the engine, its reset value, and the reasons a step can stop (spec/10_state.md). -/

namespace Sys2Proof.Machine

/-- The input ports of R34 other than the clock, as the host drives them for one rising edge. They are inputs, not state of the
engine (R33); the model holds them in State because its step has no other argument (log entry 1). -/
structure Ports where
  /-- `rst`, synchronous, active high (R200). -/
  rst       : Bool
  /-- `start` (R121). -/
  start     : Bool
  /-- `cfg_key`, unsigned (R20). -/
  cfgKey    : CfgWord
  /-- `cfg_frame`, unsigned (R21). -/
  cfgFrame  : CfgWord
  /-- `cfg_warmup`, two's complement (R22). -/
  cfgWarmup : CfgWord
  /-- `cfg_ks`, two's complement (R23). -/
  cfgKs     : CfgWord
  deriving DecidableEq, Repr

/-- The ports with every input at 0. -/
def Ports.quiet : Ports :=
  { rst := false, start := false, cfgKey := 0#32, cfgFrame := 0#32, cfgWarmup := 0#32, cfgKs := 0#32 }

/-- Everything spec/10_state.md gives the machine, and the host's inputs. -/
structure State where
  /-- X, Y and Z (R10 to R14). -/
  cipher : Cipher
  /-- SEQ, the sequencer state (R15). -/
  seq    : Seq
  /-- STEP, the 1-based step index within the phase (R16). -/
  step   : Count
  /-- ERR, the kind of the last rejected START (R18). -/
  err    : ErrCode
  /-- KC, the latched key (R24). -/
  kc     : KeyWord
  /-- FN, the latched frame value (R25). -/
  fn     : FrameWord
  /-- WCNT, the latched warm-up cycle count (R26). -/
  wcnt   : Count
  /-- NCNT, the latched keystream bit count (R27). -/
  ncnt   : Count
  /-- KS, the keystream of the current run, oldest bit first (R28). Held by the observer; unbounded (R162). -/
  ks     : List Bool
  /-- TRACE, the Step Records of the current run, oldest first (R29, R155). Held by the Trace Recorder; unbounded (R162). -/
  trace  : List StepRecord
  /-- The inputs that the next rising edge samples (log entry 1). -/
  ports  : Ports
  /-- The inputs of the edges after it, one entry an edge; when none is left the last ones stay (log entry 1). -/
  later  : List Ports
  deriving DecidableEq, Repr

/-- Why the machine stops with a fault: never. "No exception is raised during a run" (R176), and the two configuration errors
are taken by START as the spec describes, with a next state (R173). -/
inductive Fault where
  deriving DecidableEq, Repr

/-- Why a step has no meaning. -/
inductive Refusal where
  /-- An instruction the model gives no meaning; raised by no arm of `exec`. Safe: the machine stops where the hardware goes on. -/
  | notModelled (mnemonic : String)
  deriving DecidableEq, Repr

/-- The state after RESET, by the table of R30; the inputs, which have no reset value (spec/10_state.md section 4), are all 0
(log entry 2). -/
def State.reset : State :=
  { cipher := Cipher.zero, seq := .idle, step := 1#31, err := .noError, kc := 0#16, fn := 0#8, wcnt := 0#31, ncnt := 0#31,
    ks := [], trace := [], ports := Ports.quiet, later := [] }

end Sys2Proof.Machine
end

