-- ==== Sys2Proof/Machine/Operands.lean ====
section
/-! DEFINITION. Every operand the engine reads: the serial bit of a load step (spec/20_memory.md R42, R43; spec/30_encoding.md R64)
and the fields of the four configuration words (R63). -/

namespace Sys2Proof.Machine

/-- `KeyBit(s) = KC[16 - s]` for s in 1 .. 16 (R42): most significant bit first. Outside, a free value (log entry 5). -/
def keyBit (kc : KeyWord) (s : Count) : Bool :=
  if 1 ≤ s.toNat ∧ s.toNat ≤ 16 then kc.getLsbD (16 - s.toNat) else Config.keyBitOutside kc s

/-- `FrameBit(s) = FN[8 - s]` for s in 1 .. 8 (R43). Outside, a free value (log entry 5). -/
def frameBit (fn : FrameWord) (s : Count) : Bool :=
  if 1 ≤ s.toNat ∧ s.toNat ≤ 8 then fn.getLsbD (8 - s.toNat) else Config.frameBitOutside fn s

/-- The field `key` of `cfg_key`, bits [15:0] (R63). -/
def keyField (w : CfgWord) : KeyWord := w.extractLsb' 0 16

/-- The field `frame` of `cfg_frame`, bits [7:0] (R63). -/
def frameField (w : CfgWord) : FrameWord := w.extractLsb' 0 8

/-- The field `count` of `cfg_warmup` and `cfg_ks`, bits [30:0] (R63). -/
def countField (w : CfgWord) : Count := w.extractLsb' 0 31

/-- The numeric value of `cfg_key` and `cfg_frame`: all 32 bits, unsigned (R63). -/
def unsignedValue (w : CfgWord) : Nat := w.toNat

/-- The numeric value of `cfg_warmup` and `cfg_ks`: all 32 bits, two's complement (R63). -/
def signedValue (w : CfgWord) : Int := w.toInt

/-- The configuration on the ports, as the integers the spec's rules compare (R63). -/
def Ports.config (p : Ports) : RunConfig :=
  { key := unsignedValue p.cfgKey, frame := unsignedValue p.cfgFrame,
    warmupCycles := signedValue p.cfgWarmup, keystreamBits := signedValue p.cfgKs }

end Sys2Proof.Machine
end

