-- ==== Sys2Proof/Machine/Flags.lean ====
section
/-! DEFINITION. The status flags (spec/10_state.md R17) and the validation of a configuration (spec/60_exceptions.md R170 to R174). -/

namespace Sys2Proof.Machine

/-- BUSY: SEQ is one of the five executing states (R17). -/
def busy (s : State) : Bool := s.seq.phase?.isSome

/-- DONE (R17). -/
def doneFlag (s : State) : Bool := s.seq == .done

/-- ERROR (R17). -/
def errorFlag (s : State) : Bool := s.seq == .error

/-- The outcome of `Validate`. -/
inductive Verdict where
  | ok
  | error (e : ConfigError)
  deriving DecidableEq, Repr

/-- ValueTooWide: `key >= 2^16` or `frame >= 2^8` (R170). -/
def valueTooWide (c : RunConfig) : Bool := decide (2 ^ 16 ≤ c.key) || decide (2 ^ 8 ≤ c.frame)

/-- InvalidCycleCount: a negative count; zero is legal (R171, 90_conflicts.md C1). -/
def invalidCycleCount (c : RunConfig) : Bool := decide (c.warmupCycles < 0) || decide (c.keystreamBits < 0)

/-- `Validate(K, F, W, N)`: the widths are tested before the signs (R172, R174). -/
def validate (c : RunConfig) : Verdict :=
  if valueTooWide c then .error .valueTooWide
  else if invalidCycleCount c then .error .invalidCycleCount
  else .ok

end Sys2Proof.Machine
end

