-- ==== Sys2Proof/Machine/Ops.lean ====
section
/-! DEFINITION. The named operations over the state: the register writes, the appends to KS and TRACE, the position updates
(spec/42_sequencer.md R131 to R135), taking a configuration error (R173), and the accepted START (R122). -/

namespace Sys2Proof.Machine

/-! ## Register writes and appends -/

/-- `X <- X'; Y <- Y'; Z <- Z'`: all bits of all three (R14). -/
def State.withCipher (c : Cipher) (s : State) : State := { s with cipher := c }

/-- `SEQ <- q; STEP <- k`. -/
def State.withPosition (q : Seq) (k : Count) (s : State) : State := { s with seq := q, step := k }

/-- `STEP <- k`. -/
def State.withStep (k : Count) (s : State) : State := { s with step := k }

/-- `KS.append(b)`: at the end (R44). -/
def State.appendKs (b : Bool) (s : State) : State := { s with ks := s.ks ++ [b] }

/-- `TRACE.append(rec)`: at the end, never reordered, no record changed (R155, R156). -/
def State.appendTrace (r : StepRecord) (s : State) : State := { s with trace := s.trace ++ [r] }

/-! ## Position updates -/

/-- `STEP + 1` on the 31-bit counter; at its top, where the spec states no result, a free value (R16, R88; log entry 6). -/
def nextStep (k : Count) : Count := if k = BitVec.allOnes 31 then Config.stepPastTop else k + 1#31

/-- `NextAfterWarmup(N)` (R133). -/
def nextAfterWarmup (n : Count) : Seq := if n = 0#31 then .done else .keystream

/-- `NextAfterLoad(W, N)`: a phase whose count is 0 is skipped (R133). -/
def nextAfterLoad (w n : Count) : Seq := if w = 0#31 then nextAfterWarmup n else .warmup

/-- The common form of R131 to R135: on the last step of the phase hand over with STEP 1, else count up. -/
def State.countTo (last : Count) (q : Seq) (s : State) : State :=
  if s.step = last then s.withPosition q 1#31 else s.withStep (nextStep s.step)

/-- Position update of LOAD_KC (R131). -/
def State.afterLoadKc (s : State) : State := s.countTo 16#31 .loadFn

/-- Position update of LOAD_FN (R132). -/
def State.afterLoadFn (s : State) : State := s.countTo 8#31 (nextAfterLoad s.wcnt s.ncnt)

/-- Position update of WARMUP (R134). -/
def State.afterWarmup (s : State) : State := s.countTo s.wcnt (nextAfterWarmup s.ncnt)

/-- Position update of KEYSTREAM (R135). -/
def State.afterKeystream (s : State) : State := s.countTo s.ncnt .done

/-! ## The datapath writes of a load step and of an irregular step -/

/-- A load step with external bit `b`: the registers and the record (R101, R102, R105). -/
def State.loadStep (ph : Phase) (src : InSrc) (b : Bool) (s : State) : State :=
  (s.withCipher (advLoad s.cipher b).next).appendTrace (loadRecord ph src s.step.toNat b s.cipher)

/-- An irregular step: the registers and the record (R103, R104, R106). -/
def State.irrStep (ph : Phase) (out : Option Bool) (s : State) : State :=
  (s.withCipher (advIrr s.cipher).next).appendTrace (irrRecord ph s.step.toNat s.cipher out)

/-! ## Configuration errors and the accepted START -/

/-- `raise E`, the engine's trap entry: `ERR <- code(E)`, `SEQ <- ERROR`, and nothing else. It saves nothing, and no other
register, KS or TRACE changes (R173, R123; log entry 7). -/
def State.raiseConfig (e : ConfigError) (s : State) : State := { s with err := e.errCode, seq := .error }

/-- The accepted START (R122): the configuration is latched, ERR cleared, the position set to INIT, 1, and new KS and TRACE
begin; X, Y and Z are unchanged. There is no return-from-trap operation: this, from ERROR too, and RESET are the ways out of the
ERROR state (R177). -/
def State.acceptStart (s : State) : State :=
  { s with
    kc := keyField s.ports.cfgKey, fn := frameField s.ports.cfgFrame,
    wcnt := countField s.ports.cfgWarmup, ncnt := countField s.ports.cfgKs,
    err := .noError, seq := .init, step := 1#31, ks := [], trace := [] }

/-- An honoured START: `Validate` of the sampled configuration selects R122 or R123 (R121). -/
def State.honourStart (s : State) : State :=
  match validate s.ports.config with
  | .ok => s.acceptStart
  | .error e => s.raiseConfig e

/-- RESET: every state element to its reset value (R200, R30); the inputs are the host's and stay as driven. -/
def State.clear (s : State) : State := { State.reset with ports := s.ports, later := s.later }

end Sys2Proof.Machine
end

