-- ==== Sys2Proof/Machine/MicroOps.lean ====
section
/-! DEFINITION. The five executing micro-operations of format M (spec/41_advance_ops.md R100 to R104), each with its position update
(spec/42_sequencer.md R130 to R135). A meaning reads all state before it writes any (R9). -/

namespace Sys2Proof.Machine

open Host (Outcome)

/-- INIT: zero X, Y and Z, emit the init record (R100); `SEQ <- LOAD_KC; STEP <- 1` (R130). -/
def execInit (s : State) : Outcome State Fault Refusal :=
  .next (((s.withCipher Cipher.zero).appendTrace initRecord).withPosition .loadKc 1#31)

/-- LOAD_KC: one load step with the bit KC[16 - STEP] (R101), position update R131. -/
def execLoadKc (s : State) : Outcome State Fault Refusal :=
  .next (s.loadStep .loadKc .kc (keyBit s.kc s.step)).afterLoadKc

/-- LOAD_FN: one load step with the bit FN[8 - STEP] (R102), position update R132. -/
def execLoadFn (s : State) : Outcome State Fault Refusal :=
  .next (s.loadStep .loadFn .fn (frameBit s.fn s.step)).afterLoadFn

/-- WARMUP: one irregular step, no output (R103), position update R134. -/
def execWarmup (s : State) : Outcome State Fault Refusal :=
  .next (s.irrStep .warmup none).afterWarmup

/-- KEYSTREAM: one irregular step whose output bit is appended to KS (R104, R44), position update R135. -/
def execKeystream (s : State) : Outcome State Fault Refusal :=
  .next ((s.irrStep .keystream (some (keystreamBit s.cipher))).appendKs (keystreamBit s.cipher)).afterKeystream

end Sys2Proof.Machine
end

