-- ==== Sys2Proof/Machine/Waiting.lean ====
section
/-! DEFINITION. The three non-executing states of format M (spec/42_sequencer.md R136): no micro-operation, no record, no bit, and
every state element keeps its value. -/

namespace Sys2Proof.Machine

open Host (Outcome)

/-- IDLE: after reset, before any START (R136). -/
def execIdle (s : State) : Outcome State Fault Refusal := .next s

/-- DONE: a run has completed; X, Y and Z hold its last cipher state (R136). -/
def execDone (s : State) : Outcome State Fault Refusal := .next s

/-- ERROR: the last START was rejected; ERR tells the kind (R136). -/
def execError (s : State) : Outcome State Fault Refusal := .next s

end Sys2Proof.Machine
end

