-- ==== Sys2Proof/Machine/HostOps.lean ====
section
/-! DEFINITION. The three rows of format H: what a rising clock edge does for each sampled pair `{rst, start}` (spec/30_encoding.md R61;
spec/42_sequencer.md R121, R130, R137; spec/70_reset_and_hazards.md R200). -/

namespace Sys2Proof.Machine

open Host (Outcome)

/-- The sequencer proceeds: the row of R130 that SEQ selects. -/
def proceed (s : State) : Outcome State Fault Refusal :=
  match s.seq with
  | .idle => execIdle s
  | .init => execInit s
  | .loadKc => execLoadKc s
  | .loadFn => execLoadFn s
  | .warmup => execWarmup s
  | .keystream => execKeystream s
  | .done => execDone s
  | .error => execError s

/-- RESET: overrides everything else in the edge, `start` included; the micro-operation of the edge does not execute (R200,
R201). -/
def execReset (_start : Bool) (s : State) : Outcome State Fault Refusal := .next s.clear

/-- START: honoured iff BUSY = 0 (R121); while BUSY = 1 it is ignored, so that the edge does what it does without it (R137;
log entry 9). -/
def execStart (s : State) : Outcome State Fault Refusal :=
  if busy s then proceed s else .next s.honourStart

/-- NONE: no host operation, the sequencer proceeds by itself (R61, R130). -/
def execHostNone (s : State) : Outcome State Fault Refusal := proceed s

end Sys2Proof.Machine
end

