-- ==== Sys2Proof/Machine/Dispatch.lean ====
section
/-! DEFINITION. exec: one arm per constructor of Instr. -/

namespace Sys2Proof.Machine

def exec (i : Instr) (s : State) : Host.Outcome State Fault Refusal :=
  match i with
  | .idle => Sys2Proof.Machine.execIdle s
  | .init => Sys2Proof.Machine.execInit s
  | .loadKc => Sys2Proof.Machine.execLoadKc s
  | .loadFn => Sys2Proof.Machine.execLoadFn s
  | .warmup => Sys2Proof.Machine.execWarmup s
  | .keystream => Sys2Proof.Machine.execKeystream s
  | .done => Sys2Proof.Machine.execDone s
  | .error => Sys2Proof.Machine.execError s
  | .reset start => Sys2Proof.Machine.execReset start s
  | .start => Sys2Proof.Machine.execStart s
  | .hostNone => Sys2Proof.Machine.execHostNone s

end Sys2Proof.Machine
end

