-- ==== Sys2Proof/Machine/Fetch.lean ====
section
/-! DEFINITION. What a rising edge samples, what becomes of the inputs after it, and how a word of the opcode table is placed where
the next edge takes it (spec/30_encoding.md R61; log entries 1, 3 and 4). The program is hard-wired: there is no instruction
memory (R40, R120). -/

namespace Sys2Proof.Machine

/-- The format-H word that the next edge samples: `{rst, start}` (R61). -/
def State.sampledWord (s : State) : Nat := hostWord s.ports.rst s.ports.start

/-- The host operation of the next edge. Each of the four words is assigned (R61); the rejected case stands for no word. -/
def fetch (s : State) : Instr :=
  match decode .h s.sampledWord with
  | .ok i => i
  | .rejected _ => .hostNone

/-- After an edge the host drives the inputs of the next one; when it has no more to drive, the last ones stay (log entry 1). -/
def State.advanceInputs (s : State) : State :=
  match s.later with
  | [] => s
  | p :: rest => { s with ports := p, later := rest }

/-- The inputs move on after an edge that gives a next state. -/
def afterEdge : Host.Outcome State Fault Refusal → Host.Outcome State Fault Refusal
  | .next t => .next t.advanceInputs
  | .fault f => .fault f
  | .refused r => .refused r

/-- Drive `rst` and `start` for the next edge. -/
def State.drive (rst start : Bool) (s : State) : State := { s with ports := { s.ports with rst := rst, start := start } }

/-- Place a decoded instruction where the next edge takes it: a format-M code in SEQ, with no host operation sampled, so that the
sequencer runs it; a format-H pair on the two input ports. -/
def State.placeInstr (i : Instr) (s : State) : State :=
  match i with
  | .idle => { s with seq := .idle }.drive false false
  | .init => { s with seq := .init }.drive false false
  | .loadKc => { s with seq := .loadKc }.drive false false
  | .loadFn => { s with seq := .loadFn }.drive false false
  | .warmup => { s with seq := .warmup }.drive false false
  | .keystream => { s with seq := .keystream }.drive false false
  | .done => { s with seq := .done }.drive false false
  | .error => { s with seq := .error }.drive false false
  | .reset start => s.drive true start
  | .start => s.drive false true
  | .hostNone => s.drive false false

/-- Place a word of the opcode table; a word that is no instruction changes nothing. -/
def State.placeWord (nbits w : Nat) (s : State) : State :=
  match decodeTableWord nbits w with
  | some i => s.placeInstr i
  | none => s

end Sys2Proof.Machine
end

