-- ==== Sys2Proof/Machine/Step.lean ====
section
/-! DEFINITION. One step: one rising edge of `clk` (spec/42_sequencer.md R130; 92_eei_decisions.md D1). -/

namespace Sys2Proof.Machine

/-- One rising clock edge: the sampled host operation is executed, then the host drives its next inputs. -/
def step (s : State) : Host.Outcome State Fault Refusal := afterEdge (exec (fetch s) s)

/-- The state with a word of the opcode table where the next step takes it (log entries 3 and 4). -/
def State.withFetchWord (s : State) (nbits w : Nat) : State := s.placeWord nbits w

end Sys2Proof.Machine
end

