-- ==== Sys2Proof/Machine/Run.lean ====
section
/-! DEFINITION. The run as one function of the configuration, over the integers, and the pseudo-instruction `run` (spec/42_sequencer.md
R138; spec/30_encoding.md R71). It does not use the clocked machine, which R142 says agrees with it. -/

namespace Sys2Proof.Machine

/-- `n` load steps from step index `s` on, step `k` taking the bit `bit k`: the last cipher state and the records. -/
def loadSteps (ph : Phase) (src : InSrc) (bit : Nat → Bool) : (n s : Nat) → Cipher → Cipher × List StepRecord
  | 0, _, c => (c, [])
  | n + 1, s, c =>
    let rest := loadSteps ph src bit n (s + 1) (advLoad c (bit s)).next
    (rest.1, loadRecord ph src s (bit s) c :: rest.2)

/-- `n` warm-up steps from step index `s` on. -/
def warmupSteps : (n s : Nat) → Cipher → Cipher × List StepRecord
  | 0, _, c => (c, [])
  | n + 1, s, c =>
    let rest := warmupSteps n (s + 1) (advIrr c).next
    (rest.1, irrRecord .warmup s c none :: rest.2)

/-- `n` keystream steps from step index `s` on: the output bits and the records. -/
def keystreamSteps : (n s : Nat) → Cipher → List Bool × List StepRecord
  | 0, _, _ => ([], [])
  | n + 1, s, c =>
    let rest := keystreamSteps n (s + 1) (advIrr c).next
    (keystreamBit c :: rest.1, irrRecord .keystream s c (some (keystreamBit c)) :: rest.2)

/-- The keystream and the trace of an accepted configuration with `w` warm-up cycles and `n` keystream bits (R138). -/
def acceptedRun (key frame w n : Nat) : List Bool × List StepRecord :=
  let kcs := loadSteps .loadKc .kc (fun s => key.testBit (16 - s)) 16 1 Cipher.zero
  let fns := loadSteps .loadFn .fn (fun s => frame.testBit (8 - s)) 8 1 kcs.1
  let ws := warmupSteps w 1 fns.1
  let ns := keystreamSteps n 1 ws.1
  (ns.1, initRecord :: (kcs.2 ++ fns.2 ++ ws.2 ++ ns.2))

/-- What `Run` returns. -/
inductive RunResult where
  | error (e : ConfigError)
  | ok (ks : List Bool) (trace : List StepRecord)
  deriving DecidableEq, Repr

/-- `Run(key, frame, warmup_cycles, keystream_bits)` (R138). -/
def run (c : RunConfig) : RunResult :=
  match validate c with
  | .error e => .error e
  | .ok =>
    let r := acceptedRun c.key c.frame c.warmupCycles.toNat c.keystreamBits.toNat
    .ok r.1 r.2

/-- One micro-operation of the listing of R70: its label, its step, and the serial bit of a load operation. -/
structure ListedOp where
  phase : Phase
  step  : Nat
  input : Option (InSrc × Bool)
  deriving DecidableEq, Repr

/-- The numbers 1 .. n. -/
def stepsTo (n : Nat) : List Nat := (List.range n).map (· + 1)

/-- The expansion of `run` with an accepted configuration: 1 + 16 + 8 + W + N micro-operations (R71). -/
def expandRun (key frame w n : Nat) : List ListedOp :=
  [{ phase := .init, step := 1, input := none }]
    ++ (stepsTo 16).map (fun s => { phase := .loadKc, step := s, input := some (.kc, key.testBit (16 - s)) })
    ++ (stepsTo 8).map (fun s => { phase := .loadFn, step := s, input := some (.fn, frame.testBit (8 - s)) })
    ++ (stepsTo w).map (fun s => { phase := .warmup, step := s, input := none })
    ++ (stepsTo n).map (fun s => { phase := .keystream, step := s, input := none })

/-- The listing of `run`: with a rejected configuration it expands to nothing (R71). -/
def listing (c : RunConfig) : List ListedOp :=
  match validate c with
  | .error _ => []
  | .ok => expandRun c.key c.frame c.warmupCycles.toNat c.keystreamBits.toNat

/-- The listed micro-operation a Step Record is the record of. -/
def listedOf (r : StepRecord) : ListedOp :=
  { phase := r.phase, step := r.step, input := match r.inSrc, r.inBit with | some src, some b => some (src, b) | _, _ => none }

end Sys2Proof.Machine
end

