-- ==== Sys2Proof/Machine/Export.lean ====
section
/-! DEFINITION. Text: the tabular export of the trace (spec/43_trace.md R158, R159) and the listing syntax (spec/30_encoding.md R69, R70).
A text is a list of characters. The file format, the delimiter and the header line are outside the spec (spec/00_scope.md R4). -/

namespace Sys2Proof.Machine

/-- One bit as `0` or `1` (R159). -/
def bitText (b : Bool) : List Char := if b then ['1'] else ['0']

/-- A register as exactly n characters, most significant bit first (R159, R41). -/
def regText {n : Nat} (r : BitVec n) : List Char := (List.range n).flatMap (fun i => bitText (r.getMsbD i))

/-- The phase labels, spelled as D0 spells them (R69). -/
def phaseText : Phase → List Char
  | .init => ['i', 'n', 'i', 't']
  | .loadKc => ['l', 'o', 'a', 'd', '_', 'K', 'c']
  | .loadFn => ['l', 'o', 'a', 'd', '_', 'F', 'N']
  | .warmup => ['w', 'a', 'r', 'm', 'u', 'p']
  | .keystream => ['k', 'e', 'y', 's', 't', 'r', 'e', 'a', 'm']

/-- The source labels (R153). -/
def srcText : InSrc → List Char
  | .kc => ['K', 'c']
  | .fn => ['F', 'N']

/-- The error kinds, spelled exactly (R69). -/
def errorText : ConfigError → List Char
  | .valueTooWide => ['V', 'a', 'l', 'u', 'e', 'T', 'o', 'o', 'W', 'i', 'd', 'e']
  | .invalidCycleCount => ['I', 'n', 'v', 'a', 'l', 'i', 'd', 'C', 'y', 'c', 'l', 'e', 'C', 'o', 'u', 'n', 't']

/-- An optional field: the marker when it is NA, "never by omitting the column" (R158). -/
def optText {α : Type} (mark : List Char) (show' : α → List Char) : Option α → List Char
  | none => mark
  | some a => show' a

/-- The row of a record in the tabular export, with NA written as `mark`: the 21 columns of R158 in the order of R150. -/
def exportRowWith (mark : List Char) (r : StepRecord) : List (List Char) :=
  let bit := optText mark bitText
  [ phaseText r.phase, Nat.toDigits 10 r.step, optText mark srcText r.inSrc, bit r.inBit,
    regText r.preX, regText r.preY, regText r.preZ,
    bit r.fbX, bit r.fbY, bit r.fbZ, bit r.ckX, bit r.ckY, bit r.ckZ, bit r.maj,
    bit r.injX, bit r.injY, bit r.injZ,
    regText r.postX, regText r.postY, regText r.postZ, bit r.out ]

/-- The column names, in the order of the row (R158). -/
def exportColumns : List (List Char) :=
  ["phase", "step", "in_src", "in_bit", "X_pre", "Y_pre", "Z_pre", "fb_X", "fb_Y", "fb_Z", "clk_X", "clk_Y", "clk_Z",
    "maj", "inj_X", "inj_Y", "inj_Z", "X_post", "Y_post", "Z_post", "out"].map String.toList

/-- The tabular export of a trace: one row a record, in order (R158), with the open marker NA_MARK (log entry 13). -/
def exportTrace (trace : List StepRecord) : List (List (List Char)) := trace.map (exportRowWith Config.naMark)

/-- An executed micro-operation in the listing syntax: `<label> <step>`, and ` <src>=<bit>` for a load operation (R70). -/
def listedText (o : ListedOp) : List Char :=
  phaseText o.phase ++ [' '] ++ Nat.toDigits 10 o.step
    ++ match o.input with
       | none => []
       | some (src, b) => [' '] ++ srcText src ++ ['='] ++ bitText b

/-- A number in hexadecimal, as spec/95_test_vectors.md writes it: `0x` and upper-case digits, at least `digits` of them. -/
def hexText (digits n : Nat) : List Char := ['0', 'x'] ++ ((Nat.toDigits 16 n).map Char.toUpper).leftpad digits '0'

/-- An integer in decimal. -/
def intText (i : Int) : List Char := (if i < 0 then ['-'] else []) ++ Nat.toDigits 10 i.natAbs

/-- A configuration in the listing syntax: `run key=<hex> frame=<hex> warmup_cycles=<int> keystream_bits=<int>` (R70, R69). -/
def configText (c : RunConfig) : List Char :=
  "run key=".toList ++ hexText 4 c.key ++ " frame=".toList ++ hexText 2 c.frame
    ++ " warmup_cycles=".toList ++ intText c.warmupCycles ++ " keystream_bits=".toList ++ intText c.keystreamBits

end Sys2Proof.Machine
end

