-- ==== Sys2Proof/Machine/Outputs.lean ====
section
/-! DEFINITION. The output ports (spec/10_state.md R34) and what an observer has collected (R28, R29). -/

namespace Sys2Proof.Machine

/-- The output ports of R34. -/
structure Outputs where
  seq        : BitVec 3
  busy       : Bool
  done       : Bool
  err        : BitVec 2
  ksValid    : Bool
  ksBit      : Bool
  traceValid : Bool
  traceRec   : RecWord
  deriving DecidableEq, Repr

/-- The Step Record of the micro-operation executing this cycle, if one is (R100 to R104). -/
def currentRecord (s : State) : Option StepRecord :=
  match s.seq with
  | .idle => none
  | .init => some initRecord
  | .loadKc => some (loadRecord .loadKc .kc s.step.toNat (keyBit s.kc s.step) s.cipher)
  | .loadFn => some (loadRecord .loadFn .fn s.step.toNat (frameBit s.fn s.step) s.cipher)
  | .warmup => some (irrRecord .warmup s.step.toNat s.cipher none)
  | .keystream => some (irrRecord .keystream s.step.toNat s.cipher (some (keystreamBit s.cipher)))
  | .done => none
  | .error => none

/-- The bit of the KEYSTREAM step executing this cycle, if one is (R104). -/
def currentBit (s : State) : Option Bool := if s.seq = .keystream then some (keystreamBit s.cipher) else none

/-- The output ports during a cycle: functions of the state registers as they stand in it (R34; log entry 8). A bit or a record
that is not there is all zero. -/
def outputs (s : State) : Outputs :=
  { seq := s.seq.code, busy := busy s, done := doneFlag s, err := s.err.code,
    ksValid := (currentBit s).isSome, ksBit := (currentBit s).getD false,
    traceValid := busy s, traceRec := ((currentRecord s).map packRecord).getD 0#91 }

/-- The keystream of the last START: a rejected START has an empty one, whatever an earlier run left (R123; log entry 7). -/
def State.resultKs (s : State) : List Bool := if errorFlag s then [] else s.ks

/-- The trace of the last START: a rejected START has an empty one (R123; log entry 7). -/
def State.resultTrace (s : State) : List StepRecord := if errorFlag s then [] else s.trace

end Sys2Proof.Machine
end

