-- ==== Sys2Proof/Safety.lean ====
section
/-! DEFINITION. What a safe state and a safe run are, in the terms the statements use: the legal positions of the sequencer, the
relations between SEQ, ERR, KS, TRACE and the cipher state that every step keeps, and the host's premises about a run. -/

namespace Sys2Proof.Machine

/-- (SEQ, STEP) is a position the sequencer can be at: STEP counts 1 .. 16, 1 .. 8, 1 .. WCNT, 1 .. NCNT in the phases (R131 to
R135) and is 1 everywhere else. -/
def State.positionOk (s : State) : Prop :=
  match s.seq with
  | .idle | .init | .done | .error => s.step = 1#31
  | .loadKc => 1 ≤ s.step.toNat ∧ s.step.toNat ≤ 16
  | .loadFn => 1 ≤ s.step.toNat ∧ s.step.toNat ≤ 8
  | .warmup => 1 ≤ s.step.toNat ∧ s.step.toNat ≤ s.wcnt.toNat
  | .keystream => 1 ≤ s.step.toNat ∧ s.step.toNat ≤ s.ncnt.toNat

/-- ERR holds an error exactly in the ERROR state (R122, R123, R136). -/
def State.errOk (s : State) : Prop := s.err = .noError ↔ s.seq ≠ .error

/-- KS is the sequence of the output fields of the trace's records (R54 (c), R44). -/
def State.ksOk (s : State) : Prop := s.ks = s.trace.filterMap StepRecord.out

/-- Each record's pre-step registers are the post-step registers of the record before it (R157). -/
def Chained : List StepRecord → Prop
  | [] => True
  | [_] => True
  | a :: b :: rest => b.pre = a.post ∧ Chained (b :: rest)

/-- The trace begins with the init record, and its last record's post-step registers are X, Y and Z (R136, R157). -/
def State.traceEndsAtCipher (s : State) : Prop :=
  s.trace.head? = some initRecord ∧ s.trace.getLast?.map StepRecord.post = some s.cipher

/-- How many records the trace has when the run is at (SEQ, STEP): 1 init, 16 load_Kc, 8 load_FN, W warmup, N keystream (R141). -/
def State.recordsDue (s : State) : Nat :=
  match s.seq with
  | .idle | .init => 0
  | .loadKc => 1 + (s.step.toNat - 1)
  | .loadFn => 1 + 16 + (s.step.toNat - 1)
  | .warmup => 1 + 16 + 8 + (s.step.toNat - 1)
  | .keystream => 1 + 16 + 8 + s.wcnt.toNat + (s.step.toNat - 1)
  | .done | .error => 1 + 16 + 8 + s.wcnt.toNat + s.ncnt.toNat

/-- The trace as it stands at (SEQ, STEP): nothing before INIT has executed; then a chain of well-formed records, as many as the
position says, that ends at the cipher state; in ERROR whatever the last run left, which may be nothing (R173). -/
def State.traceOk (s : State) : Prop :=
  match s.seq with
  | .idle | .init => s.trace = []
  | .error => s.trace = [] ∨ (s.trace.length = s.recordsDue ∧ s.traceEndsAtCipher)
  | .loadKc | .loadFn | .warmup | .keystream | .done => s.trace.length = s.recordsDue ∧ s.traceEndsAtCipher

/-- Every record has its values exactly where R152 puts them, and consecutive records are chained (R157). -/
def State.recordsOk (s : State) : Prop := (∀ r ∈ s.trace, r.wf = true) ∧ Chained s.trace

/-- The invariant of the engine: what every step keeps and reset has. -/
structure State.Inv (s : State) : Prop where
  position : s.positionOk
  err      : s.errOk
  ks       : s.ksOk
  trace    : s.traceOk
  records  : s.recordsOk

/-- The premise of a claim about a run: no RESET at the next edge or any later one (R201). -/
def State.noReset (s : State) : Prop := s.ports.rst = false ∧ ∀ p ∈ s.later, p.rst = false

/-- The next edge is an honoured START: `{rst, start}` = 01 with BUSY = 0 (R121). -/
def State.startsNow (s : State) : Prop := s.ports.rst = false ∧ s.ports.start = true ∧ busy s = false

end Sys2Proof.Machine
end

