-- ==== Sys2Proof/Certificates/Slice0/Obligations.lean ====
section
/-! DEFINITION. The statements for the provers. Each says which rule of spec/ it formalises; the words they share come first. -/

namespace Sys2Proof.Claims

open Sys2Proof.Machine

/-- `r'` is `r` with its most significant bit dropped and `j` appended at the least significant end, bit by bit (R85). -/
def ShiftedBy {n : Nat} (r r' : BitVec n) (j : Bool) : Prop :=
  r'.getLsbD 0 = j ∧ ∀ k, k + 1 < n → r'.getLsbD (k + 1) = r.getLsbD k

/-- The registers no micro-operation writes, and the inputs: ERR, KC, FN, WCNT, NCNT, the ports. -/
def LatchesKept (s t : State) : Prop :=
  t.err = s.err ∧ t.kc = s.kc ∧ t.fn = s.fn ∧ t.wcnt = s.wcnt ∧ t.ncnt = s.ncnt ∧ t.ports = s.ports ∧ t.later = s.later

/-- The record of a load step from registers `c` to `c'` with external bit `b` (R101, R102): feedback, clock-control and injected
fields are bits, computed from the registers before the step; majority and output are NA. -/
def loadRecordSpec (ph : Phase) (src : InSrc) (step : Nat) (b : Bool) (c c' : Cipher) : StepRecord :=
  { phase := ph, step := step, inSrc := some src, inBit := some b, preX := c.x, preY := c.y, preZ := c.z,
    fbX := some (c.x.getLsbD 3 ^^ c.x.getLsbD 1), fbY := some (c.y.getLsbD 4 ^^ c.y.getLsbD 0),
    fbZ := some (c.z.getLsbD 5 ^^ c.z.getLsbD 4 ^^ c.z.getLsbD 0),
    ckX := some (c.x.getLsbD 1), ckY := some (c.y.getLsbD 2), ckZ := some (c.z.getLsbD 3), maj := none,
    injX := some (c.x.getLsbD 3 ^^ c.x.getLsbD 1 ^^ b), injY := some (c.y.getLsbD 4 ^^ c.y.getLsbD 0 ^^ b),
    injZ := some (c.z.getLsbD 5 ^^ c.z.getLsbD 4 ^^ c.z.getLsbD 0 ^^ b),
    postX := c'.x, postY := c'.y, postZ := c'.z, out := none }

/-- What a load step with external bit `b` does to everything but the position (R101, R102, R105). -/
def LoadEffect (ph : Phase) (src : InSrc) (b : Bool) (s t : State) : Prop :=
  ShiftedBy s.cipher.x t.cipher.x (s.cipher.x.getLsbD 3 ^^ s.cipher.x.getLsbD 1 ^^ b) ∧
  ShiftedBy s.cipher.y t.cipher.y (s.cipher.y.getLsbD 4 ^^ s.cipher.y.getLsbD 0 ^^ b) ∧
  ShiftedBy s.cipher.z t.cipher.z (s.cipher.z.getLsbD 5 ^^ s.cipher.z.getLsbD 4 ^^ s.cipher.z.getLsbD 0 ^^ b) ∧
  t.trace = s.trace ++ [loadRecordSpec ph src s.step.toNat b s.cipher t.cipher] ∧
  t.ks = s.ks ∧ LatchesKept s t

/-- The majority of the three clock-control bits X[1], Y[2], Z[3]: 1 iff at least two of the three are 1 (R83, R84). -/
def majorityOf (c : Cipher) : Bool :=
  decide (2 ≤ (c.x.getLsbD 1).toNat + (c.y.getLsbD 2).toNat + (c.z.getLsbD 3).toNat)

/-- A register of an irregular step (R106): shifted with its feedback bit `fb`, and `inj` that bit, when its clock-control bit `ck`
is the majority `m`; else unchanged, and `inj` NA. -/
def ClockedIf {n : Nat} (ck m fb : Bool) (r r' : BitVec n) (inj : Option Bool) : Prop :=
  (ck = m → ShiftedBy r r' fb ∧ inj = some fb) ∧ (ck ≠ m → r' = r ∧ inj = none)

/-- What an irregular step does to everything but KS and the position (R103, R104, R106): two or three registers are shifted. -/
def IrrEffect (ph : Phase) (out : Option Bool) (s t : State) : Prop :=
  ∃ jx jy jz : Option Bool,
    ClockedIf (s.cipher.x.getLsbD 1) (majorityOf s.cipher) (s.cipher.x.getLsbD 3 ^^ s.cipher.x.getLsbD 1)
      s.cipher.x t.cipher.x jx ∧
    ClockedIf (s.cipher.y.getLsbD 2) (majorityOf s.cipher) (s.cipher.y.getLsbD 4 ^^ s.cipher.y.getLsbD 0)
      s.cipher.y t.cipher.y jy ∧
    ClockedIf (s.cipher.z.getLsbD 3) (majorityOf s.cipher)
      (s.cipher.z.getLsbD 5 ^^ s.cipher.z.getLsbD 4 ^^ s.cipher.z.getLsbD 0) s.cipher.z t.cipher.z jz ∧
    t.trace = s.trace ++
      [{ phase := ph, step := s.step.toNat, inSrc := none, inBit := none,
         preX := s.cipher.x, preY := s.cipher.y, preZ := s.cipher.z,
         fbX := some (s.cipher.x.getLsbD 3 ^^ s.cipher.x.getLsbD 1),
         fbY := some (s.cipher.y.getLsbD 4 ^^ s.cipher.y.getLsbD 0),
         fbZ := some (s.cipher.z.getLsbD 5 ^^ s.cipher.z.getLsbD 4 ^^ s.cipher.z.getLsbD 0),
         ckX := some (s.cipher.x.getLsbD 1), ckY := some (s.cipher.y.getLsbD 2), ckZ := some (s.cipher.z.getLsbD 3),
         maj := some (majorityOf s.cipher), injX := jx, injY := jy, injZ := jz,
         postX := t.cipher.x, postY := t.cipher.y, postZ := t.cipher.z, out := out }] ∧
    2 ≤ jx.isSome.toNat + jy.isSome.toNat + jz.isSome.toNat ∧
    LatchesKept s t

/-- A position update of the form of R131 to R135: on step `last` hand over to `q` with STEP 1; else SEQ stays and STEP goes up by
one (for a STEP below the top of the counter, which it never reaches: R16). -/
def CountsTo (last : Count) (q : Seq) (s t : State) : Prop :=
  (s.step = last → t.seq = q ∧ t.step = 1#31) ∧
  (s.step ≠ last → t.seq = s.seq ∧ (s.step.toNat < 2 ^ 31 - 1 → t.step.toNat = s.step.toNat + 1))

/-- The host's inputs after an edge: the next ones it drives, or the same when it drives no more (log entry 1). -/
def nextInputs (t : State) : State :=
  match t.later with
  | [] => t
  | p :: rest => { t with ports := p, later := rest }

/-- The configuration on the ports is legal: R20 to R23, R172. -/
def LegalPorts (p : Ports) : Prop :=
  p.cfgKey.toNat < 2 ^ 16 ∧ p.cfgFrame.toNat < 2 ^ 8 ∧ p.cfgWarmup.getLsbD 31 = false ∧ p.cfgKs.getLsbD 31 = false

/-- An instruction that, at this state, begins an accepted run or resets: the only two that empty KS and TRACE. -/
def StartsAfresh (i : Instr) (s : State) : Prop :=
  (∃ b, i = .reset b) ∨ (i = .start ∧ busy s = false)

/-- The instruction makes the sequencer execute the KEYSTREAM micro-operation at this state. -/
def RunsKeystream (i : Instr) (s : State) : Prop :=
  i = .keystream ∨ ((i = .hostNone ∨ i = .start) ∧ s.seq = .keystream)

/-- What R108 says of one record: in a load record all three injected fields are bits; in an irregular record an injected field is
a bit iff the clock-control field equals the majority field, and where it is NA the register is unchanged; a bit means shifted. -/
def InjectionOk {n : Nat} (ph : Phase) (ck m inj : Option Bool) (pre post : BitVec n) : Prop :=
  ((ph = .loadKc ∨ ph = .loadFn) → inj.isSome = true) ∧
  ((ph = .warmup ∨ ph = .keystream) → (inj.isSome = true ↔ ck = m) ∧ (inj = none → post = pre)) ∧
  (∀ j, inj = some j → ShiftedBy pre post j)

/-- Optional bits that are NA together and share the valid bit `v` of a binary record, each with the place of its value bit (R160):
the valid bit is 1 iff the field holds a bit, and the value bit is that bit, 0 when the field is NA. -/
def OptBitsAt (w : RecWord) (v : Nat) (fields : List (Nat × Option Bool)) : Prop :=
  ∀ f ∈ fields, w.getLsbD v = f.2.isSome ∧ (∀ b, f.2 = some b → w.getLsbD f.1 = b) ∧ (f.2 = none → w.getLsbD f.1 = false)

/-- The code of R60 on the port `seq`. -/
def seqPort : Seq → BitVec 3
  | .idle => 0#3
  | .init => 1#3
  | .loadKc => 2#3
  | .loadFn => 3#3
  | .warmup => 4#3
  | .keystream => 5#3
  | .done => 6#3
  | .error => 7#3

/-- The code of R62 on the port `err`. -/
def errPort : ErrCode → BitVec 2
  | .noError => 0#2
  | .valueTooWide => 1#2
  | .invalidCycleCount => 2#2

/-- The label of a phase (R69). -/
def phaseLabel : Phase → String
  | .init => "init"
  | .loadKc => "load_Kc"
  | .loadFn => "load_FN"
  | .warmup => "warmup"
  | .keystream => "keystream"

/-- A cell that shows an optional bit: the marker when it is NA (R158), else `0` or `1` (R159). -/
def BitCell (mark : List Char) (field : Option Bool) (cell : Option (List Char)) : Prop :=
  (field = none → cell = some mark) ∧ ∀ b, field = some b → cell = some [if b then '1' else '0']

/-- A cell that shows a register: exactly n characters, character k the bit n-1-k as `0` or `1`, most significant first (R159). -/
def RegCell {n : Nat} (r : BitVec n) (cell : Option (List Char)) : Prop :=
  ∃ text, cell = some text ∧ text.length = n ∧ ∀ k, k < n → text[k]? = some (if r.getLsbD (n - 1 - k) then '1' else '0')

end Sys2Proof.Claims

open Sys2Proof Sys2Proof.Machine Sys2Proof.Claims

/-! ## Encoding -/

/-- R60, R61: decoding the encoding of any instruction gives it back, RESET's sampled bit s included. -/
def Obligations.EncodeThenDecodeGivesTheInstruction : Prop :=
  ∀ i : Instr, i.wf = true → decode i.format (encode i) = .ok i

/-- R61, R67 (a): every word of a format is an instruction of that format and is its encoding; a wider word is refused by name. -/
def Obligations.EveryCodeIsAssignedAndEncodesBack : Prop :=
  ∀ (f : Format) (w : Nat),
    (w < 2 ^ f.width → ∃ i, decode f w = .ok i ∧ i.format = f ∧ encode i = w) ∧
    (2 ^ f.width ≤ w → decode f w = .rejected .tooWide)

/-- Words of the opcode table written out bit by bit (R60, R61): a sanity statement. -/
def Obligations.TableWordsDecodeAsListed : Prop :=
  decode .m 0b000 = .ok .idle ∧ decode .m 0b001 = .ok .init ∧ decode .m 0b010 = .ok .loadKc ∧ decode .m 0b011 = .ok .loadFn ∧
  decode .m 0b100 = .ok .warmup ∧ decode .m 0b101 = .ok .keystream ∧ decode .m 0b110 = .ok .done ∧
  decode .m 0b111 = .ok .error ∧ decode .h 0b00 = .ok .hostNone ∧ decode .h 0b01 = .ok .start ∧
  decode .h 0b10 = .ok (.reset false) ∧ decode .h 0b11 = .ok (.reset true)

/-- R160: the bit position of every field of the 91-bit record, for a record of the engine: well formed, with a step that fits the
31-bit counter. An optional bit is a valid bit and a value bit, 0 when it is NA; the three feedback fields share one valid bit, and
so do the three clock-control fields. The port shows 0 when no micro-operation executes, and bit 90 of a keystream record is
`ks_bit`. -/
def Obligations.PackedRecordHasTheListedLayout : Prop :=
  (∀ r : StepRecord, r.wf = true → r.step < 2 ^ 31 →
    (packRecord r).extractLsb' 0 3 = r.phase.seq.code ∧
    ((packRecord r).extractLsb' 3 31).toNat = r.step ∧
    (packRecord r).extractLsb' 34 2 = inSrcCode r.inSrc ∧
    (packRecord r).getLsbD 36 = r.inBit.getD false ∧ (r.inSrc = none → (packRecord r).getLsbD 36 = false) ∧
    (packRecord r).extractLsb' 37 5 = r.preX ∧ (packRecord r).extractLsb' 42 6 = r.preY ∧
    (packRecord r).extractLsb' 48 7 = r.preZ ∧
    OptBitsAt (packRecord r) 55 [(56, r.fbX), (57, r.fbY), (58, r.fbZ)] ∧
    OptBitsAt (packRecord r) 59 [(60, r.ckX), (61, r.ckY), (62, r.ckZ)] ∧
    OptBitsAt (packRecord r) 63 [(64, r.maj)] ∧
    OptBitsAt (packRecord r) 65 [(66, r.injX)] ∧ OptBitsAt (packRecord r) 67 [(68, r.injY)] ∧
    OptBitsAt (packRecord r) 69 [(70, r.injZ)] ∧
    (packRecord r).extractLsb' 71 5 = r.postX ∧ (packRecord r).extractLsb' 76 6 = r.postY ∧
    (packRecord r).extractLsb' 82 7 = r.postZ ∧
    OptBitsAt (packRecord r) 89 [(90, r.out)]) ∧
  (∀ s : State, (outputs s).traceValid = false → (outputs s).traceRec = 0#91) ∧
  (∀ s : State, s.seq = .keystream → (outputs s).traceRec.getLsbD 90 = (outputs s).ksBit)

/-- R160, R152 (the decoder of the binary record is the model's own): unpacking the binary form of any well-formed record whose step
fits the 31-bit counter gives the record back. -/
def Obligations.UnpackOfPackedRecordIsTheRecord : Prop :=
  ∀ r : StepRecord, r.wf = true → r.step < 2 ^ 31 → unpackRecord (packRecord r) = .ok r

/-- R160, R152, R153: a 91-bit word that is accepted as a record is the binary form of that record, which is well formed: no other
word stands for it. -/
def Obligations.AcceptedRecordWordPacksBack : Prop :=
  ∀ (w : RecWord) (r : StepRecord), unpackRecord w = .ok r → r.wf = true ∧ r.step < 2 ^ 31 ∧ packRecord r = w

/-- The worked example of R161, which the spec marks as derived from R160 and R103: `warmup 1` of the default run, and the init
record. -/
def Obligations.PackedWorkedExample : Prop :=
  packRecord (irrRecord .warmup 1 { x := 0b10110#5, y := 0b100101#6, z := 0b1110100#7 } none) = 0x1D0B69FBBF496C00000000C#91 ∧
  packRecord initRecord = 0x9#91

/-! ## Datapath functions -/

/-- R80, R81, R82: the feedback taps by hardware bit and by D0's MSB-first array index, and the complete truth tables
(character i of the table is the feedback bit of the value i). -/
def Obligations.FeedbackTapsAndTruthTables : Prop :=
  (∀ x : XReg, fbX x = (x.getLsbD 3 ^^ x.getLsbD 1) ∧ fbX x = (x.getMsbD 1 ^^ x.getMsbD 3) ∧
    fbX x = (0b00110011110011000011001111001100#32).getMsbD x.toNat) ∧
  (∀ y : YReg, fbY y = (y.getLsbD 4 ^^ y.getLsbD 0) ∧ fbY y = (y.getMsbD 1 ^^ y.getMsbD 5) ∧
    fbY y = (0b0101010101010101101010101010101001010101010101011010101010101010#64).getMsbD y.toNat) ∧
  (∀ z : ZReg, fbZ z = (z.getLsbD 5 ^^ z.getLsbD 4 ^^ z.getLsbD 0) ∧
    fbZ z = (z.getMsbD 1 ^^ z.getMsbD 2 ^^ z.getMsbD 6) ∧
    fbZ z = (0b01010101010101011010101010101010101010101010101001010101010101010101010101010101101010101010101010101010101010100101010101010101#128).getMsbD z.toNat)

/-- R83: the clock-control taps by hardware bit and as array index 3 of each MSB-first array; an irregular step takes them from the
registers before the step. -/
def Obligations.ClockControlTaps : Prop :=
  (∀ x : XReg, ckX x = x.getLsbD 1 ∧ ckX x = x.getMsbD 3) ∧ (∀ y : YReg, ckY y = y.getLsbD 2 ∧ ckY y = y.getMsbD 3) ∧
  (∀ z : ZReg, ckZ z = z.getLsbD 3 ∧ ckZ z = z.getMsbD 3) ∧
  (∀ c : Cipher, (advIrr c).ck = { x := c.x.getLsbD 1, y := c.y.getLsbD 2, z := c.z.getLsbD 3 })

/-- R84: "the majority is 1 if at least two of the three are 1, else 0". -/
def Obligations.MajorityIsAtLeastTwo : Prop :=
  ∀ a b c : Bool, maj a b c = decide (2 ≤ a.toNat + b.toNat + c.toNat)

/-- R85: the shift bit by bit and as arithmetic, for a register of any width. -/
def Obligations.ShiftDropsTheTopBitAndAppends : Prop :=
  ∀ (n : Nat) (r : BitVec (n + 1)) (j : Bool),
    ShiftedBy r (shiftIn r j) j ∧ (shiftIn r j).toNat = (2 * r.toNat + j.toNat) % 2 ^ (n + 1)

/-- R86: a register is clocked iff its clock-control bit equals the majority; and "the number of registers clocked in a cycle is
always 2 or 3, never 0 or 1", which the spec marks as its own inference from R84. -/
def Obligations.EnablesClockTwoOrThreeRegisters : Prop :=
  ∀ c : Cipher,
    (enables c).x = (c.x.getLsbD 1 == majorityOf c) ∧ (enables c).y = (c.y.getLsbD 2 == majorityOf c) ∧
    (enables c).z = (c.z.getLsbD 3 == majorityOf c) ∧ (clockedCount c = 2 ∨ clockedCount c = 3)

/-- R87: the output bit is the exclusive-or of the most significant bits after the step. In terms of the registers before it (the
spec's own inference from R85 and R86): bit n-2 of a clocked register and bit n-1 of one that is not. -/
def Obligations.OutputBitIsOfThePostStepRegisters : Prop :=
  ∀ c : Cipher,
    outBit c = (c.x.getLsbD 4 ^^ c.y.getLsbD 5 ^^ c.z.getLsbD 6) ∧ keystreamBit c = outBit (advIrr c).next ∧
    keystreamBit c = ((if c.x.getLsbD 1 = majorityOf c then c.x.getLsbD 3 else c.x.getLsbD 4) ^^
      (if c.y.getLsbD 2 = majorityOf c then c.y.getLsbD 4 else c.y.getLsbD 5) ^^
      (if c.z.getLsbD 3 = majorityOf c then c.z.getLsbD 5 else c.z.getLsbD 6))

/-- R42, R43: load step s takes bit n - s, the most significant bit first: array index s - 1. -/
def Obligations.SerialBitsComeMostSignificantFirst : Prop :=
  (∀ (kc : KeyWord) (s : Count), 1 ≤ s.toNat → s.toNat ≤ 16 →
    keyBit kc s = kc.getLsbD (16 - s.toNat) ∧ keyBit kc s = kc.getMsbD (s.toNat - 1)) ∧
  (∀ (fn : FrameWord) (s : Count), 1 ≤ s.toNat → s.toNat ≤ 8 →
    frameBit fn s = fn.getLsbD (8 - s.toNat) ∧ frameBit fn s = fn.getMsbD (s.toNat - 1))

/-! ## The micro-operations -/

/-- R100, and the INIT row of R130: INIT completes in every state; everything else is unchanged. -/
def Obligations.InitZeroesTheRegisters : Prop :=
  ∀ s : State,
    exec .init s = .next { s with
      cipher := { x := 0b00000#5, y := 0b000000#6, z := 0b0000000#7 }, seq := .loadKc, step := 1#31,
      trace := s.trace ++
        [{ phase := .init, step := 1, inSrc := none, inBit := none, preX := 0#5, preY := 0#6, preZ := 0#7,
           fbX := none, fbY := none, fbZ := none, ckX := none, ckY := none, ckZ := none, maj := none,
           injX := none, injY := none, injZ := none, postX := 0#5, postY := 0#6, postZ := 0#7, out := none }] }

/-- R101, R105, R42: LOAD_KC completes in every state. In its 16 steps the external bit is KC[16 - STEP]; for any other STEP, which
the sequencer never gives it (R46), the bit is a free value (log entry 5) and the effect is the same in that bit. -/
def Obligations.LoadKcShiftsAllThreeWithTheKeyBit : Prop :=
  ∀ s : State, ∃ (t : State) (b : Bool),
    exec .loadKc s = .next t ∧
    (1 ≤ s.step.toNat → s.step.toNat ≤ 16 → b = s.kc.getLsbD (16 - s.step.toNat)) ∧
    LoadEffect .loadKc .kc b s t

/-- R102, R105, R43: LOAD_FN completes in every state, with FN[8 - STEP] in its 8 steps; for any other STEP the bit is a free value,
which is the model's choice (log entry 5). -/
def Obligations.LoadFnShiftsAllThreeWithTheFrameBit : Prop :=
  ∀ s : State, ∃ (t : State) (b : Bool),
    exec .loadFn s = .next t ∧
    (1 ≤ s.step.toNat → s.step.toNat ≤ 8 → b = s.fn.getLsbD (8 - s.step.toNat)) ∧
    LoadEffect .loadFn .fn b s t

/-- R103, R106: WARMUP completes in every state; registers whose clock-control bit is the majority are shifted, the others keep
their value, and KS is unchanged. -/
def Obligations.WarmupClocksByMajorityWithoutOutput : Prop :=
  ∀ s : State, ∃ t : State, exec .warmup s = .next t ∧ IrrEffect .warmup none s t ∧ t.ks = s.ks

/-- R104, R106: KEYSTREAM completes in every state, clocks as WARMUP does, and appends to KS and to its record the exclusive-or of
the most significant bits of the registers after the step. -/
def Obligations.KeystreamAppendsThePostStepOutputBit : Prop :=
  ∀ s : State, ∃ (t : State) (o : Bool),
    exec .keystream s = .next t ∧ o = (t.cipher.x.getLsbD 4 ^^ t.cipher.y.getLsbD 5 ^^ t.cipher.z.getLsbD 6) ∧
    IrrEffect .keystream (some o) s t ∧ t.ks = s.ks ++ [o]

/-- R131: the position update of LOAD_KC. -/
def Obligations.LoadKcCountsSixteenSteps : Prop :=
  ∀ s : State, ∃ t : State, exec .loadKc s = .next t ∧ CountsTo 16#31 .loadFn s t

/-- R132, R133: the position update of LOAD_FN; a phase whose count is 0 is skipped. -/
def Obligations.LoadFnCountsEightStepsAndSkipsEmptyPhases : Prop :=
  ∀ s : State, ∃ t : State, exec .loadFn s = .next t ∧
    (0 < s.wcnt.toNat → CountsTo 8#31 .warmup s t) ∧
    (s.wcnt.toNat = 0 → 0 < s.ncnt.toNat → CountsTo 8#31 .keystream s t) ∧
    (s.wcnt.toNat = 0 → s.ncnt.toNat = 0 → CountsTo 8#31 .done s t)

/-- R134, R133: the position update of WARMUP. -/
def Obligations.WarmupCountsToWcnt : Prop :=
  ∀ s : State, ∃ t : State, exec .warmup s = .next t ∧
    (0 < s.ncnt.toNat → CountsTo s.wcnt .keystream s t) ∧ (s.ncnt.toNat = 0 → CountsTo s.wcnt .done s t)

/-- R135: the position update of KEYSTREAM. -/
def Obligations.KeystreamCountsToNcnt : Prop :=
  ∀ s : State, ∃ t : State, exec .keystream s = .next t ∧ CountsTo s.ncnt .done s t

/-- R136: IDLE, DONE and ERROR execute nothing and keep every state element. -/
def Obligations.WaitingStatesKeepEverything : Prop :=
  ∀ s : State, exec .idle s = .next s ∧ exec .done s = .next s ∧ exec .error s = .next s

/-- R136: in IDLE, DONE and ERROR an edge without RESET and without START leaves every state element as it is; only the host's
inputs move on (log entry 1). -/
def Obligations.OnlyStartOrResetLeavesAWaitingState : Prop :=
  ∀ s : State, (s.seq = .idle ∨ s.seq = .done ∨ s.seq = .error) → s.ports.rst = false → s.ports.start = false →
    step s = .next (nextInputs s)

/-! ## The host operations -/

/-- R130, R61: with no host operation the sequencer proceeds: NONE does what the instruction whose code SEQ holds does. -/
def Obligations.NoneRunsTheMicroOperationOfSeq : Prop :=
  ∀ (s : State) (i : Instr), decode .m s.seq.code.toNat = .ok i →
    ∃ t : State, exec i s = .next t ∧ exec .hostNone s = .next t

/-- R122: an accepted START latches the configuration and sets INIT, step 1; X, Y and Z are unchanged; it holds from IDLE, DONE
and ERROR alike (R143). -/
def Obligations.AcceptedStartLatchesTheConfiguration : Prop :=
  ∀ s : State, busy s = false → LegalPorts s.ports →
    exec .start s = .next { s with
      kc := BitVec.ofNat 16 s.ports.cfgKey.toNat, fn := BitVec.ofNat 8 s.ports.cfgFrame.toNat,
      wcnt := BitVec.ofNat 31 s.ports.cfgWarmup.toNat, ncnt := BitVec.ofNat 31 s.ports.cfgKs.toNat,
      err := .noError, seq := .init, step := 1#31, ks := [], trace := [] }

/-- R173: a rejected START writes ERR and SEQ and nothing else, and ends in the state that the ports show as `seq` = 7 with the
code of the error. A too-wide key or frame is ValueTooWide whatever the counts (R170, R174); with both in range, a negative count
is InvalidCycleCount (R171). -/
def Obligations.RejectedStartWritesErrAndSeqOnly : Prop :=
  ∀ s : State, busy s = false → ∀ e : ConfigError,
    (e = .valueTooWide ∧ (2 ^ 16 ≤ s.ports.cfgKey.toNat ∨ 2 ^ 8 ≤ s.ports.cfgFrame.toNat) ∨
     e = .invalidCycleCount ∧ s.ports.cfgKey.toNat < 2 ^ 16 ∧ s.ports.cfgFrame.toNat < 2 ^ 8 ∧
       (s.ports.cfgWarmup.toInt < 0 ∨ s.ports.cfgKs.toInt < 0)) →
    ∃ t : State, exec .start s = .next t ∧ t = { s with err := e.errCode, seq := .error } ∧
      (outputs t).seq = 7#3 ∧ (outputs t).err = (if e = .valueTooWide then 1#2 else 2#2) ∧
      (outputs t).busy = false ∧ (outputs t).done = false

/-- Log entry 7 (the model's reading of R123 beside R173): the result of a rejected START is an empty keystream and an empty
trace, whatever an earlier run left. -/
def Obligations.RejectedStartHasAnEmptyResult : Prop :=
  ∀ s : State, busy s = false → ∀ e : ConfigError, validate s.ports.config = .error e →
    ∃ t : State, exec .start s = .next t ∧ t.resultKs = [] ∧ t.resultTrace = [] ∧ t.ks = s.ks ∧ t.trace = s.trace

/-- R137, R130: a START while BUSY = 1 is ignored: the edge does what it does with no host operation (log entry 9), and the ports
are not looked at. -/
def Obligations.StartWhileBusyIsIgnored : Prop :=
  ∀ s : State, busy s = true → ∃ t : State,
    exec .hostNone s = .next t ∧ exec .start s = .next t ∧
    ∀ p : Ports, exec .start { s with ports := p } = .next { t with ports := p }

/-- R200: RESET sets every state element to its reset value in any state, whether `start` is 1 or 0; the inputs are no state
element (R33) and stay the host's. It overrides everything else in its edge: whatever inputs come after it, a step from a state with
`rst` = 1 leaves every state element so. -/
def Obligations.ResetClearsEveryStateElement : Prop :=
  ∀ s : State, ∃ t : State,
    t = { cipher := { x := 0b00000#5, y := 0b000000#6, z := 0b0000000#7 }, seq := .idle, step := 1#31, err := .noError,
          kc := 0#16, fn := 0#8, wcnt := 0#31, ncnt := 0#31, ks := [], trace := [], ports := s.ports, later := s.later } ∧
    (∀ b : Bool, exec (.reset b) s = .next t) ∧
    (s.ports.rst = true → ∃ u : State, step s = .next u ∧ t = { u with ports := s.ports, later := s.later })

/-- R30: the state after reset. -/
def Obligations.ResetStateHoldsTheListedValues : Prop :=
  State.reset.cipher = { x := 0b00000#5, y := 0b000000#6, z := 0b0000000#7 } ∧ State.reset.seq = .idle ∧
  State.reset.seq.code = 0#3 ∧ State.reset.step = 1#31 ∧ State.reset.err = .noError ∧ State.reset.err.code = 0#2 ∧
  State.reset.kc = 0#16 ∧ State.reset.fn = 0#8 ∧ State.reset.wcnt = 0#31 ∧ State.reset.ncnt = 0#31 ∧
  State.reset.ks = [] ∧ State.reset.trace = [] ∧
  busy State.reset = false ∧ doneFlag State.reset = false ∧ errorFlag State.reset = false

/-! ## The step -/

/-- R61: a step executes the host operation that the pair `{rst, start}` decodes to; then the host's inputs move on, which is the
model's own (log entry 1). -/
def Obligations.StepRunsTheSampledHostOperation : Prop :=
  ∀ (s t : State) (i : Instr), decode .h (2 * s.ports.rst.toNat + s.ports.start.toNat) = .ok i → exec i s = .next t →
    step s = .next (nextInputs t)

/-- R130: without RESET, and without START or while BUSY, a step executes the instruction whose code SEQ holds (and the host's
inputs move on: log entry 1). -/
def Obligations.StepRunsTheMicroOperationOfSeq : Prop :=
  ∀ (s : State) (i : Instr), s.ports.rst = false → (s.ports.start = false ∨ busy s = true) →
    decode .m s.seq.code.toNat = .ok i → ∃ t : State, exec i s = .next t ∧ step s = .next (nextInputs t)

/-- R140: every step is total: from any state, with any inputs, it gives a next state, as does every instruction. -/
def Obligations.EveryStepAndInstructionCompletes : Prop :=
  (∀ s : State, ∃ t : State, step s = .next t) ∧ (∀ (i : Instr) (s : State), ∃ t : State, exec i s = .next t)

/-- R17: at most one of BUSY, DONE and ERROR is 1; all are 0 exactly in IDLE; BUSY is the five executing states. -/
def Obligations.StatusFlagsAreExclusive : Prop :=
  ∀ s : State,
    (busy s = true ↔ s.seq = .init ∨ s.seq = .loadKc ∨ s.seq = .loadFn ∨ s.seq = .warmup ∨ s.seq = .keystream) ∧
    (doneFlag s = true ↔ s.seq = .done) ∧ (errorFlag s = true ↔ s.seq = .error) ∧
    (busy s).toNat + (doneFlag s).toNat + (errorFlag s).toNat ≤ 1 ∧
    (busy s = false ∧ doneFlag s = false ∧ errorFlag s = false ↔ s.seq = .idle)

/-- R34: in every state `seq` and `err` are the codes of SEQ and ERR (R60, R62), `busy` and `done` the flags of R17; `ks_valid` is 1
exactly in KEYSTREAM cycles and `trace_valid` equals BUSY; what is not valid is all zero; and what the ports show in a cycle is
what its edge, without RESET (log entry 8), appends to KS and TRACE (R44, R155). -/
def Obligations.PortsShowWhatTheEdgeAppends : Prop :=
  ∀ s : State,
    (outputs s).seq = seqPort s.seq ∧ (outputs s).err = errPort s.err ∧
    ((outputs s).busy = true ↔
      s.seq = .init ∨ s.seq = .loadKc ∨ s.seq = .loadFn ∨ s.seq = .warmup ∨ s.seq = .keystream) ∧
    ((outputs s).done = true ↔ s.seq = .done) ∧
    ((outputs s).ksValid = true ↔ s.seq = .keystream) ∧ ((outputs s).ksValid = false → (outputs s).ksBit = false) ∧
    (outputs s).traceValid = (outputs s).busy ∧ ((outputs s).traceValid = false → (outputs s).traceRec = 0#91) ∧
    (s.ports.rst = false → (s.ports.start = false ∨ busy s = true) → ∃ t : State, step s = .next t ∧
      ((outputs s).ksValid = true → t.ks = s.ks ++ [(outputs s).ksBit]) ∧
      ((outputs s).ksValid = false → t.ks = s.ks) ∧
      ((outputs s).traceValid = true → ∃ r, t.trace = s.trace ++ [r] ∧ (outputs s).traceRec = packRecord r) ∧
      ((outputs s).traceValid = false → t.trace = s.trace))

/-! ## Whole-machine rules -/

/-- R18, R24 to R27: ERR, KC, FN, WCNT and NCNT change only by an honoured START or by RESET. -/
def Obligations.OnlyStartOrResetWritesTheLatches : Prop :=
  ∀ (i : Instr) (s t : State), exec i s = .next t →
    (t.err ≠ s.err ∨ t.kc ≠ s.kc ∨ t.fn ≠ s.fn ∨ t.wcnt ≠ s.wcnt ∨ t.ncnt ≠ s.ncnt) → StartsAfresh i s

/-- R10 to R13: X, Y and Z change only by the five micro-operations and by RESET: an instruction that changes them is one of the
five, or has the sequencer execute one, or is RESET. -/
def Obligations.OnlyMicroOperationsOrResetWriteTheRegisters : Prop :=
  ∀ (i : Instr) (s t : State), exec i s = .next t → t.cipher ≠ s.cipher →
    i = .init ∨ i = .loadKc ∨ i = .loadFn ∨ i = .warmup ∨ i = .keystream ∨ (∃ b, i = .reset b) ∨
    ((i = .hostNone ∨ i = .start) ∧ busy s = true)

/-- R44: KS grows by exactly one bit, at its end, in a KEYSTREAM micro-operation, and otherwise stays, but where a new run or a
RESET empties it. -/
def Obligations.KeystreamSequenceGrowsOnlyInKeystream : Prop :=
  ∀ (i : Instr) (s t : State), exec i s = .next t →
    (RunsKeystream i s → ∃ b, t.ks = s.ks ++ [b]) ∧
    (¬ RunsKeystream i s → t.ks = s.ks ∨ (t.ks = [] ∧ StartsAfresh i s))

/-- R155, R156: no record is ever changed, moved or removed: the trace before is a prefix of the trace after, at most one record
longer, but where a new run or a RESET begins an empty one. -/
def Obligations.TraceIsAppendOnly : Prop :=
  ∀ (i : Instr) (s t : State), exec i s = .next t →
    ((s.trace <+: t.trace ∧ t.trace.length ≤ s.trace.length + 1) ∨ (t.trace = [] ∧ StartsAfresh i s))

/-- R176: during a run an edge without RESET raises no exception: SEQ does not become ERROR or IDLE, and ERR is unchanged. -/
def Obligations.NoExceptionDuringARun : Prop :=
  ∀ s : State, busy s = true → s.ports.rst = false →
    ∃ t : State, step s = .next t ∧ t.seq ≠ .error ∧ t.seq ≠ .idle ∧ t.err = s.err

/-- The invariant holds after reset. -/
def Obligations.InvariantHoldsAtReset : Prop := State.reset.Inv

/-- From every state that meets it, a step keeps the invariant: the sequencer is at a legal position (R131 to R135), ERR is set
exactly in ERROR, KS is the outputs of the trace (R54), and the trace is a chain of well-formed records, as many as the position
says, that ends at X, Y and Z (R141, R152, R157). -/
def Obligations.EveryStepKeepsTheInvariant : Prop :=
  ∀ s t : State, s.Inv → step s = .next t → t.Inv

/-! ## The run -/

/-- The agreement of the state machine with the function `Run`, which R142 states as the spec's own inference from R122, R123,
R130 to R135 and R138; the host's inputs are those of log entry 1. A rejected START leads in one edge to ERROR with the code of the error
and an empty result (log entry 7); an accepted one leads, after 1 + 16 + 8 + W + N further edges without RESET and whatever else the host
drives, to DONE with the keystream and the trace of `Run`. -/
def Obligations.StateMachineAgreesWithRun : Prop :=
  ∀ s : State, s.startsNow → s.noReset →
    (∀ e, run s.ports.config = .error e →
      ∃ t : State, step s = .next t ∧ t.seq = .error ∧ t.err = e.errCode ∧ t.resultKs = [] ∧ t.resultTrace = []) ∧
    (∀ ks trace, run s.ports.config = .ok ks trace →
      ∃ t : State,
        Host.Core.run core (1 + (1 + 16 + 8 + s.ports.cfgWarmup.toInt.toNat + s.ports.cfgKs.toInt.toNat)) s = .next t ∧
        t.seq = .done ∧ t.ks = ks ∧ t.trace = trace)

/-- R201, R206: after the START edge and k further edges of an accepted run, without RESET, TRACE is the first k records of the
complete run's trace and KS the outputs of those records: one micro-operation an edge, in the order of the program (the host's
inputs are those of log entry 1). -/
def Obligations.TraceAfterEachEdgeIsAPrefixOfTheRun : Prop :=
  ∀ (s : State) (ks : List Bool) (trace : List StepRecord), s.startsNow → s.noReset →
    run s.ports.config = .ok ks trace → ∀ k, k ≤ trace.length →
      ∃ t : State, Host.Core.run core (1 + k) s = .next t ∧ t.trace = trace.take k ∧
        t.ks = (trace.take k).filterMap StepRecord.out

/-- R141: lengths and listing of every accepted run: 1 init, 16 load_Kc, 8 load_FN, W warmup and N keystream records with steps
from 1 up, the load records with the bits R71 lists. -/
def Obligations.RunHasTheListedRecords : Prop :=
  ∀ (c : RunConfig) (ks : List Bool) (trace : List StepRecord), run c = .ok ks trace →
    ks.length = c.keystreamBits.toNat ∧
    trace.length = 1 + 16 + 8 + c.warmupCycles.toNat + c.keystreamBits.toNat ∧
    trace.map listedOf = listing c

/-- R172: `Validate` accepts a configuration iff both values are in range and no count is negative, answers ValueTooWide whenever a
value is too wide (R174) and InvalidCycleCount otherwise; `Run` returns an error exactly when `Validate` does (R138). -/
def Obligations.ValidateRejectsExactlyTheIllegalConfigurations : Prop :=
  ∀ c : RunConfig,
    (validate c = .ok ↔ c.key < 2 ^ 16 ∧ c.frame < 2 ^ 8 ∧ 0 ≤ c.warmupCycles ∧ 0 ≤ c.keystreamBits) ∧
    (validate c = .error .valueTooWide ↔ 2 ^ 16 ≤ c.key ∨ 2 ^ 8 ≤ c.frame) ∧
    (validate c = .error .invalidCycleCount ↔
      c.key < 2 ^ 16 ∧ c.frame < 2 ^ 8 ∧ (c.warmupCycles < 0 ∨ c.keystreamBits < 0)) ∧
    (∀ e, run c = .error e ↔ validate c = .error e)

/-- The chaining of R157, the spec's own inference from R100 to R104 and R130: each record starts where the one before it ended,
and the first is the init record with all six register fields zero. -/
def Obligations.RunTraceIsChained : Prop :=
  ∀ (c : RunConfig) (ks : List Bool) (trace : List StepRecord), run c = .ok ks trace →
    Chained trace ∧ trace.head? = some initRecord ∧ initRecord.pre = Cipher.zero ∧ initRecord.post = Cipher.zero ∧
    ks = trace.filterMap StepRecord.out

/-- What the injected fields of every record of a run say about its registers: R108, the spec's own inference from R105 and R106. -/
def Obligations.InjectedFieldsTellWhatWasShifted : Prop :=
  ∀ (c : RunConfig) (ks : List Bool) (trace : List StepRecord), run c = .ok ks trace → ∀ r ∈ trace,
    InjectionOk r.phase r.ckX r.maj r.injX r.preX r.postX ∧ InjectionOk r.phase r.ckY r.maj r.injY r.preY r.postY ∧
    InjectionOk r.phase r.ckZ r.maj r.injZ r.preZ r.postZ

/-- The result of a run depends only on the accepted configuration, the spec's own inference in R140 from R122, R100 and R137 (the
host's inputs are those of log entry 1): two machines that differ in any state element but get
the same inputs are in the same state two edges after the accepted START, and so for ever after. -/
def Obligations.RunDoesNotDependOnTheStateBefore : Prop :=
  ∀ s u : State, s.startsNow → LegalPorts s.ports → busy u = false → u.ports = s.ports → u.later = s.later →
    ∀ k, ∃ t : State, Host.Core.run core (2 + k) s = .next t ∧ Host.Core.run core (2 + k) u = .next t

/-! ## Text -/

/-- R158, R159: every row has the 21 columns; the phase and the source are shown by their labels (R69) and the step in decimal; a
register is shown as exactly n characters, its bits most significant first; and each of the 13 optional fields shows the marker,
whatever the marker is (log entry 13), when it is NA, and else its value, a bit as `0` or `1`. -/
def Obligations.ExportRowHasEveryColumn : Prop :=
  ∀ (mark : List Char) (r : StepRecord) (row : List (List Char)), row = exportRowWith mark r →
    row.length = 21 ∧ exportColumns.length = 21 ∧
    row[0]? = some (phaseLabel r.phase).toList ∧ row[1]? = some (Nat.toDigits 10 r.step) ∧
    (r.inSrc = none → row[2]? = some mark) ∧ (r.inSrc = some .kc → row[2]? = some ['K', 'c']) ∧
    (r.inSrc = some .fn → row[2]? = some ['F', 'N']) ∧ BitCell mark r.inBit row[3]? ∧
    RegCell r.preX row[4]? ∧ RegCell r.preY row[5]? ∧ RegCell r.preZ row[6]? ∧
    BitCell mark r.fbX row[7]? ∧ BitCell mark r.fbY row[8]? ∧ BitCell mark r.fbZ row[9]? ∧
    BitCell mark r.ckX row[10]? ∧ BitCell mark r.ckY row[11]? ∧ BitCell mark r.ckZ row[12]? ∧
    BitCell mark r.maj row[13]? ∧
    BitCell mark r.injX row[14]? ∧ BitCell mark r.injY row[15]? ∧ BitCell mark r.injZ row[16]? ∧
    RegCell r.postX row[17]? ∧ RegCell r.postY row[18]? ∧ RegCell r.postZ row[19]? ∧
    BitCell mark r.out row[20]?

/-! ## The load transition -/

/-- R105: the load-mode transition, for one external bit: the three feedback bits of the registers before the step, each injected
bit the feedback bit of its own register xor that one bit, and all three registers shifted with them, whatever the clock-control
bits are. -/
def Obligations.LoadTransitionShiftsAllThreeRegisters : Prop :=
  ∀ (c : Cipher) (b : Bool),
    (advLoad c b).fb = { x := c.x.getLsbD 3 ^^ c.x.getLsbD 1, y := c.y.getLsbD 4 ^^ c.y.getLsbD 0,
                         z := c.z.getLsbD 5 ^^ c.z.getLsbD 4 ^^ c.z.getLsbD 0 } ∧
    (advLoad c b).inj = { x := (advLoad c b).fb.x ^^ b, y := (advLoad c b).fb.y ^^ b, z := (advLoad c b).fb.z ^^ b } ∧
    ShiftedBy c.x (advLoad c b).next.x (advLoad c b).inj.x ∧ ShiftedBy c.y (advLoad c b).next.y (advLoad c b).inj.y ∧
    ShiftedBy c.z (advLoad c b).next.z (advLoad c b).inj.z
end

