-- ==== Sys2Proof/Laws/Datapath.lean ====
section
/-! SUPPORT. What the shared operations of the datapath, of the operands and of the sequencer do, said once. -/

namespace Sys2Proof.Machine

/-! ## Shift -/

@[simp] theorem shiftIn_getLsbD_zero {n : Nat} (r : BitVec (n + 1)) (j : Bool) : (shiftIn r j).getLsbD 0 = j := by
  simp [shiftIn]

theorem shiftIn_getLsbD_succ {n : Nat} (r : BitVec n) (j : Bool) (k : Nat) (h : k + 1 < n) :
    (shiftIn r j).getLsbD (k + 1) = r.getLsbD k := by
  simp [shiftIn, h]

/-! ## Majority and enables -/

/-- Two or three registers are clocked in an irregular step. -/
theorem two_or_three_clocked (c : Cipher) : clockedCount c = 2 ∨ clockedCount c = 3 := by
  unfold clockedCount enables majority maj
  cases ckX c.x <;> cases ckY c.y <;> cases ckZ c.z <;> decide

theorem clocked_of_enabled {n : Nat} (r : BitVec n) (fb : Bool) : clocked true r fb = shiftIn r fb := rfl
theorem clocked_of_held {n : Nat} (r : BitVec n) (fb : Bool) : clocked false r fb = r := rfl

@[simp] theorem injected_isSome (en fb : Bool) : (injected en fb).isSome = en := by cases en <;> rfl

/-! ## Records -/

@[simp] theorem loadRecord_phase (ph : Phase) (src : InSrc) (k : Nat) (b : Bool) (c : Cipher) :
    (loadRecord ph src k b c).phase = ph := rfl
@[simp] theorem loadRecord_step (ph : Phase) (src : InSrc) (k : Nat) (b : Bool) (c : Cipher) :
    (loadRecord ph src k b c).step = k := rfl
@[simp] theorem loadRecord_out (ph : Phase) (src : InSrc) (k : Nat) (b : Bool) (c : Cipher) :
    (loadRecord ph src k b c).out = none := rfl
@[simp] theorem loadRecord_pre (ph : Phase) (src : InSrc) (k : Nat) (b : Bool) (c : Cipher) :
    (loadRecord ph src k b c).pre = c := rfl
@[simp] theorem loadRecord_post (ph : Phase) (src : InSrc) (k : Nat) (b : Bool) (c : Cipher) :
    (loadRecord ph src k b c).post = (advLoad c b).next := rfl
@[simp] theorem irrRecord_phase (ph : Phase) (k : Nat) (c : Cipher) (o : Option Bool) : (irrRecord ph k c o).phase = ph := rfl
@[simp] theorem irrRecord_step (ph : Phase) (k : Nat) (c : Cipher) (o : Option Bool) : (irrRecord ph k c o).step = k := rfl
@[simp] theorem irrRecord_out (ph : Phase) (k : Nat) (c : Cipher) (o : Option Bool) : (irrRecord ph k c o).out = o := rfl
@[simp] theorem irrRecord_pre (ph : Phase) (k : Nat) (c : Cipher) (o : Option Bool) : (irrRecord ph k c o).pre = c := rfl
@[simp] theorem irrRecord_post (ph : Phase) (k : Nat) (c : Cipher) (o : Option Bool) :
    (irrRecord ph k c o).post = (advIrr c).next := rfl

theorem initRecord_wf : initRecord.wf = true := by decide

/-- The record of a load step has its values where R152 puts them. -/
theorem loadRecord_wf_kc (k : Nat) (hk : 1 ≤ k) (b : Bool) (c : Cipher) : (loadRecord .loadKc .kc k b c).wf = true := by
  simp [StepRecord.wf, StepRecord.stepOk, StepRecord.inputOk, StepRecord.fbOk, StepRecord.ckOk, StepRecord.majOk,
    StepRecord.injOk, StepRecord.outOk, loadRecord, hk]

/-- The record of a load step has its values where R152 puts them. -/
theorem loadRecord_wf_fn (k : Nat) (hk : 1 ≤ k) (b : Bool) (c : Cipher) : (loadRecord .loadFn .fn k b c).wf = true := by
  simp [StepRecord.wf, StepRecord.stepOk, StepRecord.inputOk, StepRecord.fbOk, StepRecord.ckOk, StepRecord.majOk,
    StepRecord.injOk, StepRecord.outOk, loadRecord, hk]

/-- The record of a warm-up step has its values where R152 puts them. -/
theorem irrRecord_wf_warmup (k : Nat) (hk : 1 ≤ k) (c : Cipher) : (irrRecord .warmup k c none).wf = true := by
  simp [StepRecord.wf, StepRecord.stepOk, StepRecord.inputOk, StepRecord.fbOk, StepRecord.ckOk, StepRecord.majOk,
    StepRecord.injOk, StepRecord.outOk, irrRecord, advIrr, enables, clockControl, hk]

/-- The record of a keystream step has its values where R152 puts them. -/
theorem irrRecord_wf_keystream (k : Nat) (hk : 1 ≤ k) (c : Cipher) (o : Bool) :
    (irrRecord .keystream k c (some o)).wf = true := by
  simp [StepRecord.wf, StepRecord.stepOk, StepRecord.inputOk, StepRecord.fbOk, StepRecord.ckOk, StepRecord.majOk,
    StepRecord.injOk, StepRecord.outOk, irrRecord, advIrr, enables, clockControl, hk]

/-! ## Operands -/

theorem keyBit_of_range {kc : KeyWord} {s : Count} (h1 : 1 ≤ s.toNat) (h2 : s.toNat ≤ 16) :
    keyBit kc s = kc.getLsbD (16 - s.toNat) := by
  simp [keyBit, h1, h2]

theorem frameBit_of_range {fn : FrameWord} {s : Count} (h1 : 1 ≤ s.toNat) (h2 : s.toNat ≤ 8) :
    frameBit fn s = fn.getLsbD (8 - s.toNat) := by
  simp [frameBit, h1, h2]

/-! ## Position -/

/-- Below its top the counter goes up by one. -/
theorem nextStep_toNat {k : Count} (h : k.toNat < 2 ^ 31 - 1) : (nextStep k).toNat = k.toNat + 1 := by
  have hne : k ≠ BitVec.allOnes 31 := by
    intro e
    rw [e] at h
    simp at h
  rw [nextStep, if_neg hne]
  simp only [BitVec.toNat_add]
  norm_num
  omega

theorem countTo_of_eq {s : State} {l : Count} {q : Seq} (h : s.step = l) : s.countTo l q = s.withPosition q 1#31 := by
  rw [State.countTo, if_pos h]

theorem countTo_of_ne {s : State} {l : Count} {q : Seq} (h : s.step ≠ l) : s.countTo l q = s.withStep (nextStep s.step) := by
  rw [State.countTo, if_neg h]

theorem nextAfterWarmup_of_zero : nextAfterWarmup 0#31 = .done := rfl

theorem nextAfterWarmup_of_pos {n : Count} (h : 0 < n.toNat) : nextAfterWarmup n = .keystream := by
  rw [nextAfterWarmup, if_neg]
  rintro rfl
  simp at h

theorem nextAfterLoad_of_zero (n : Count) : nextAfterLoad 0#31 n = nextAfterWarmup n := rfl

theorem nextAfterLoad_of_pos {w : Count} (n : Count) (h : 0 < w.toNat) : nextAfterLoad w n = .warmup := by
  rw [nextAfterLoad, if_neg]
  rintro rfl
  simp at h

theorem countTo_seq (s : State) (l : Count) (q : Seq) : (s.countTo l q).seq = q ∨ (s.countTo l q).seq = s.seq := by
  by_cases h : s.step = l
  · exact .inl (by rw [countTo_of_eq h]; rfl)
  · exact .inr (by rw [countTo_of_ne h]; rfl)

theorem nextAfterWarmup_cases (n : Count) : nextAfterWarmup n = .keystream ∨ nextAfterWarmup n = .done := by
  unfold nextAfterWarmup
  split <;> simp

theorem nextAfterLoad_cases (w n : Count) :
    nextAfterLoad w n = .warmup ∨ nextAfterLoad w n = .keystream ∨ nextAfterLoad w n = .done := by
  unfold nextAfterLoad
  split
  · exact .inr (nextAfterWarmup_cases n)
  · exact .inl rfl

/-! ## Validation -/

theorem valueTooWide_iff (c : RunConfig) : valueTooWide c = true ↔ 2 ^ 16 ≤ c.key ∨ 2 ^ 8 ≤ c.frame := by
  simp [valueTooWide]

theorem invalidCycleCount_iff (c : RunConfig) : invalidCycleCount c = true ↔ c.warmupCycles < 0 ∨ c.keystreamBits < 0 := by
  simp [invalidCycleCount]

/-- What `Validate` answers, case by case. -/
theorem validate_cases (c : RunConfig) :
    (valueTooWide c = true ∧ validate c = .error .valueTooWide) ∨
    (valueTooWide c = false ∧ invalidCycleCount c = true ∧ validate c = .error .invalidCycleCount) ∨
    (valueTooWide c = false ∧ invalidCycleCount c = false ∧ validate c = .ok) := by
  unfold validate
  cases valueTooWide c <;> cases invalidCycleCount c <;> simp

/-- What an honoured START gives, case by case. -/
theorem honourStart_cases (s : State) :
    (validate s.ports.config = .ok ∧ s.honourStart = s.acceptStart) ∨
    (∃ e, validate s.ports.config = .error e ∧ s.honourStart = s.raiseConfig e) := by
  unfold State.honourStart
  cases validate s.ports.config with
  | ok => exact .inl ⟨rfl, rfl⟩
  | error e => exact .inr ⟨e, rfl, rfl⟩

/-! ## The run -/

theorem loadSteps_length (ph : Phase) (src : InSrc) (bit : Nat → Bool) (n s : Nat) (c : Cipher) :
    (loadSteps ph src bit n s c).2.length = n := by
  induction n generalizing s c with
  | zero => rfl
  | succ n ih => simp [loadSteps, ih]

theorem warmupSteps_length (n s : Nat) (c : Cipher) : (warmupSteps n s c).2.length = n := by
  induction n generalizing s c with
  | zero => rfl
  | succ n ih => simp [warmupSteps, ih]

theorem keystreamSteps_length (n s : Nat) (c : Cipher) :
    (keystreamSteps n s c).1.length = n ∧ (keystreamSteps n s c).2.length = n := by
  induction n generalizing s c with
  | zero => exact ⟨rfl, rfl⟩
  | succ n ih => simp [keystreamSteps, (ih _ _).1, (ih _ _).2]

theorem loadSteps_out (ph : Phase) (src : InSrc) (bit : Nat → Bool) (n s : Nat) (c : Cipher) :
    (loadSteps ph src bit n s c).2.filterMap StepRecord.out = [] := by
  induction n generalizing s c with
  | zero => rfl
  | succ n ih => rw [loadSteps, List.filterMap_cons_none (by rfl)]; exact ih _ _

theorem warmupSteps_out (n s : Nat) (c : Cipher) : (warmupSteps n s c).2.filterMap StepRecord.out = [] := by
  induction n generalizing s c with
  | zero => rfl
  | succ n ih => rw [warmupSteps, List.filterMap_cons_none (by rfl)]; exact ih _ _

/-- The output bits of the keystream steps are the output fields of their records. -/
theorem keystreamSteps_out (n s : Nat) (c : Cipher) :
    (keystreamSteps n s c).2.filterMap StepRecord.out = (keystreamSteps n s c).1 := by
  induction n generalizing s c with
  | zero => rfl
  | succ n ih => simp only [keystreamSteps]; rw [List.filterMap_cons_some (by rfl), ih]

end Sys2Proof.Machine
end

