-- ==== Sys2Proof/Laws/Encoding.lean ====
section
/-! SUPPORT. What the field operations of the binary Step Record do, bit by bit. -/

namespace Sys2Proof

theorem fieldAt_getLsbD {n : Nat} (lo : Nat) (v : BitVec n) (i : Nat) :
    (fieldAt lo v).getLsbD i = (decide (i < 91) && decide (lo ≤ i) && v.getLsbD (i - lo)) := by
  simp only [fieldAt, BitVec.getLsbD_shiftLeft, BitVec.getLsbD_setWidth]
  by_cases h : i < 91 <;> by_cases h2 : i < lo <;> simp [h, h2]
  have : lo ≤ i := by omega
  have h3 : i - lo < 91 := by omega
  simp [this, h3]

theorem fieldAt_inside {n : Nat} {lo i : Nat} (v : BitVec n) (h : i < 91) (h' : lo ≤ i) :
    (fieldAt lo v).getLsbD i = v.getLsbD (i - lo) := by
  rw [fieldAt_getLsbD]
  simp [h, h']

theorem fieldAt_below {n : Nat} {lo i : Nat} (v : BitVec n) (h : i < lo) : (fieldAt lo v).getLsbD i = false := by
  simp [fieldAt_getLsbD, Nat.not_le.mpr h]

theorem fieldAt_above {n : Nat} {lo i : Nat} (v : BitVec n) (h : lo + n ≤ i) : (fieldAt lo v).getLsbD i = false := by
  rw [fieldAt_getLsbD, BitVec.getLsbD_of_ge v (i - lo) (by omega), Bool.and_false]

/-- A valid and a value bit that pass the check are those of the optional bit read from them. -/
theorem optBit_of_clear {valid value : Bool} (h : (valid || !value) = true) :
    (optBit valid value).isSome = valid ∧ (optBit valid value).getD false = value := by
  cases valid <;> cases value <;> simp_all [optBit]

theorem seqCode_of_phaseOfCode {c : BitVec 3} {ph : Phase} (h : phaseOfCode c = some ph) : ph.seq.code = c := by
  unfold phaseOfCode at h
  split_ifs at h with h1 h2 h3 h4 h5 <;> cases h
  exacts [h1.symm, h2.symm, h3.symm, h4.symm, h5.symm]

end Sys2Proof
end

