-- ==== Sys2Proof/Laws/State.lean ====
section
/-! SUPPORT. One lemma per field per state update: what the field holds after it. -/

namespace Sys2Proof.Machine.State

/-! ### withCipher -/

@[simp] theorem withCipher_cipher (s : State) (c : Cipher) : (s.withCipher c).cipher = c := rfl
@[simp] theorem withCipher_seq (s : State) (c : Cipher) : (s.withCipher c).seq = s.seq := rfl
@[simp] theorem withCipher_step (s : State) (c : Cipher) : (s.withCipher c).step = s.step := rfl
@[simp] theorem withCipher_err (s : State) (c : Cipher) : (s.withCipher c).err = s.err := rfl
@[simp] theorem withCipher_kc (s : State) (c : Cipher) : (s.withCipher c).kc = s.kc := rfl
@[simp] theorem withCipher_fn (s : State) (c : Cipher) : (s.withCipher c).fn = s.fn := rfl
@[simp] theorem withCipher_wcnt (s : State) (c : Cipher) : (s.withCipher c).wcnt = s.wcnt := rfl
@[simp] theorem withCipher_ncnt (s : State) (c : Cipher) : (s.withCipher c).ncnt = s.ncnt := rfl
@[simp] theorem withCipher_ks (s : State) (c : Cipher) : (s.withCipher c).ks = s.ks := rfl
@[simp] theorem withCipher_trace (s : State) (c : Cipher) : (s.withCipher c).trace = s.trace := rfl
@[simp] theorem withCipher_ports (s : State) (c : Cipher) : (s.withCipher c).ports = s.ports := rfl
@[simp] theorem withCipher_later (s : State) (c : Cipher) : (s.withCipher c).later = s.later := rfl

/-! ### withPosition -/

@[simp] theorem withPosition_cipher (s : State) (q : Seq) (k : Count) : (s.withPosition q k).cipher = s.cipher := rfl
@[simp] theorem withPosition_seq (s : State) (q : Seq) (k : Count) : (s.withPosition q k).seq = q := rfl
@[simp] theorem withPosition_step (s : State) (q : Seq) (k : Count) : (s.withPosition q k).step = k := rfl
@[simp] theorem withPosition_err (s : State) (q : Seq) (k : Count) : (s.withPosition q k).err = s.err := rfl
@[simp] theorem withPosition_kc (s : State) (q : Seq) (k : Count) : (s.withPosition q k).kc = s.kc := rfl
@[simp] theorem withPosition_fn (s : State) (q : Seq) (k : Count) : (s.withPosition q k).fn = s.fn := rfl
@[simp] theorem withPosition_wcnt (s : State) (q : Seq) (k : Count) : (s.withPosition q k).wcnt = s.wcnt := rfl
@[simp] theorem withPosition_ncnt (s : State) (q : Seq) (k : Count) : (s.withPosition q k).ncnt = s.ncnt := rfl
@[simp] theorem withPosition_ks (s : State) (q : Seq) (k : Count) : (s.withPosition q k).ks = s.ks := rfl
@[simp] theorem withPosition_trace (s : State) (q : Seq) (k : Count) : (s.withPosition q k).trace = s.trace := rfl
@[simp] theorem withPosition_ports (s : State) (q : Seq) (k : Count) : (s.withPosition q k).ports = s.ports := rfl
@[simp] theorem withPosition_later (s : State) (q : Seq) (k : Count) : (s.withPosition q k).later = s.later := rfl

/-! ### withStep -/

@[simp] theorem withStep_cipher (s : State) (k : Count) : (s.withStep k).cipher = s.cipher := rfl
@[simp] theorem withStep_seq (s : State) (k : Count) : (s.withStep k).seq = s.seq := rfl
@[simp] theorem withStep_step (s : State) (k : Count) : (s.withStep k).step = k := rfl
@[simp] theorem withStep_err (s : State) (k : Count) : (s.withStep k).err = s.err := rfl
@[simp] theorem withStep_kc (s : State) (k : Count) : (s.withStep k).kc = s.kc := rfl
@[simp] theorem withStep_fn (s : State) (k : Count) : (s.withStep k).fn = s.fn := rfl
@[simp] theorem withStep_wcnt (s : State) (k : Count) : (s.withStep k).wcnt = s.wcnt := rfl
@[simp] theorem withStep_ncnt (s : State) (k : Count) : (s.withStep k).ncnt = s.ncnt := rfl
@[simp] theorem withStep_ks (s : State) (k : Count) : (s.withStep k).ks = s.ks := rfl
@[simp] theorem withStep_trace (s : State) (k : Count) : (s.withStep k).trace = s.trace := rfl
@[simp] theorem withStep_ports (s : State) (k : Count) : (s.withStep k).ports = s.ports := rfl
@[simp] theorem withStep_later (s : State) (k : Count) : (s.withStep k).later = s.later := rfl

/-! ### appendKs -/

@[simp] theorem appendKs_cipher (s : State) (b : Bool) : (s.appendKs b).cipher = s.cipher := rfl
@[simp] theorem appendKs_seq (s : State) (b : Bool) : (s.appendKs b).seq = s.seq := rfl
@[simp] theorem appendKs_step (s : State) (b : Bool) : (s.appendKs b).step = s.step := rfl
@[simp] theorem appendKs_err (s : State) (b : Bool) : (s.appendKs b).err = s.err := rfl
@[simp] theorem appendKs_kc (s : State) (b : Bool) : (s.appendKs b).kc = s.kc := rfl
@[simp] theorem appendKs_fn (s : State) (b : Bool) : (s.appendKs b).fn = s.fn := rfl
@[simp] theorem appendKs_wcnt (s : State) (b : Bool) : (s.appendKs b).wcnt = s.wcnt := rfl
@[simp] theorem appendKs_ncnt (s : State) (b : Bool) : (s.appendKs b).ncnt = s.ncnt := rfl
@[simp] theorem appendKs_ks (s : State) (b : Bool) : (s.appendKs b).ks = s.ks ++ [b] := rfl
@[simp] theorem appendKs_trace (s : State) (b : Bool) : (s.appendKs b).trace = s.trace := rfl
@[simp] theorem appendKs_ports (s : State) (b : Bool) : (s.appendKs b).ports = s.ports := rfl
@[simp] theorem appendKs_later (s : State) (b : Bool) : (s.appendKs b).later = s.later := rfl

/-! ### appendTrace -/

@[simp] theorem appendTrace_cipher (s : State) (r : StepRecord) : (s.appendTrace r).cipher = s.cipher := rfl
@[simp] theorem appendTrace_seq (s : State) (r : StepRecord) : (s.appendTrace r).seq = s.seq := rfl
@[simp] theorem appendTrace_step (s : State) (r : StepRecord) : (s.appendTrace r).step = s.step := rfl
@[simp] theorem appendTrace_err (s : State) (r : StepRecord) : (s.appendTrace r).err = s.err := rfl
@[simp] theorem appendTrace_kc (s : State) (r : StepRecord) : (s.appendTrace r).kc = s.kc := rfl
@[simp] theorem appendTrace_fn (s : State) (r : StepRecord) : (s.appendTrace r).fn = s.fn := rfl
@[simp] theorem appendTrace_wcnt (s : State) (r : StepRecord) : (s.appendTrace r).wcnt = s.wcnt := rfl
@[simp] theorem appendTrace_ncnt (s : State) (r : StepRecord) : (s.appendTrace r).ncnt = s.ncnt := rfl
@[simp] theorem appendTrace_ks (s : State) (r : StepRecord) : (s.appendTrace r).ks = s.ks := rfl
@[simp] theorem appendTrace_trace (s : State) (r : StepRecord) : (s.appendTrace r).trace = s.trace ++ [r] := rfl
@[simp] theorem appendTrace_ports (s : State) (r : StepRecord) : (s.appendTrace r).ports = s.ports := rfl
@[simp] theorem appendTrace_later (s : State) (r : StepRecord) : (s.appendTrace r).later = s.later := rfl

/-! ### raiseConfig -/

@[simp] theorem raiseConfig_cipher (s : State) (e : ConfigError) : (s.raiseConfig e).cipher = s.cipher := rfl
@[simp] theorem raiseConfig_seq (s : State) (e : ConfigError) : (s.raiseConfig e).seq = .error := rfl
@[simp] theorem raiseConfig_step (s : State) (e : ConfigError) : (s.raiseConfig e).step = s.step := rfl
@[simp] theorem raiseConfig_err (s : State) (e : ConfigError) : (s.raiseConfig e).err = e.errCode := rfl
@[simp] theorem raiseConfig_kc (s : State) (e : ConfigError) : (s.raiseConfig e).kc = s.kc := rfl
@[simp] theorem raiseConfig_fn (s : State) (e : ConfigError) : (s.raiseConfig e).fn = s.fn := rfl
@[simp] theorem raiseConfig_wcnt (s : State) (e : ConfigError) : (s.raiseConfig e).wcnt = s.wcnt := rfl
@[simp] theorem raiseConfig_ncnt (s : State) (e : ConfigError) : (s.raiseConfig e).ncnt = s.ncnt := rfl
@[simp] theorem raiseConfig_ks (s : State) (e : ConfigError) : (s.raiseConfig e).ks = s.ks := rfl
@[simp] theorem raiseConfig_trace (s : State) (e : ConfigError) : (s.raiseConfig e).trace = s.trace := rfl
@[simp] theorem raiseConfig_ports (s : State) (e : ConfigError) : (s.raiseConfig e).ports = s.ports := rfl
@[simp] theorem raiseConfig_later (s : State) (e : ConfigError) : (s.raiseConfig e).later = s.later := rfl

/-! ### acceptStart -/

@[simp] theorem acceptStart_cipher (s : State) : (s.acceptStart).cipher = s.cipher := rfl
@[simp] theorem acceptStart_seq (s : State) : (s.acceptStart).seq = .init := rfl
@[simp] theorem acceptStart_step (s : State) : (s.acceptStart).step = 1#31 := rfl
@[simp] theorem acceptStart_err (s : State) : (s.acceptStart).err = .noError := rfl
@[simp] theorem acceptStart_kc (s : State) : (s.acceptStart).kc = keyField s.ports.cfgKey := rfl
@[simp] theorem acceptStart_fn (s : State) : (s.acceptStart).fn = frameField s.ports.cfgFrame := rfl
@[simp] theorem acceptStart_wcnt (s : State) : (s.acceptStart).wcnt = countField s.ports.cfgWarmup := rfl
@[simp] theorem acceptStart_ncnt (s : State) : (s.acceptStart).ncnt = countField s.ports.cfgKs := rfl
@[simp] theorem acceptStart_ks (s : State) : (s.acceptStart).ks = [] := rfl
@[simp] theorem acceptStart_trace (s : State) : (s.acceptStart).trace = [] := rfl
@[simp] theorem acceptStart_ports (s : State) : (s.acceptStart).ports = s.ports := rfl
@[simp] theorem acceptStart_later (s : State) : (s.acceptStart).later = s.later := rfl

/-! ### clear -/

@[simp] theorem clear_cipher (s : State) : (s.clear).cipher = Cipher.zero := rfl
@[simp] theorem clear_seq (s : State) : (s.clear).seq = .idle := rfl
@[simp] theorem clear_step (s : State) : (s.clear).step = 1#31 := rfl
@[simp] theorem clear_err (s : State) : (s.clear).err = .noError := rfl
@[simp] theorem clear_kc (s : State) : (s.clear).kc = 0#16 := rfl
@[simp] theorem clear_fn (s : State) : (s.clear).fn = 0#8 := rfl
@[simp] theorem clear_wcnt (s : State) : (s.clear).wcnt = 0#31 := rfl
@[simp] theorem clear_ncnt (s : State) : (s.clear).ncnt = 0#31 := rfl
@[simp] theorem clear_ks (s : State) : (s.clear).ks = [] := rfl
@[simp] theorem clear_trace (s : State) : (s.clear).trace = [] := rfl
@[simp] theorem clear_ports (s : State) : (s.clear).ports = s.ports := rfl
@[simp] theorem clear_later (s : State) : (s.clear).later = s.later := rfl

/-! ### loadStep -/

@[simp] theorem loadStep_cipher (s : State) (ph : Phase) (src : InSrc) (b : Bool) : (s.loadStep ph src b).cipher = (advLoad s.cipher b).next := rfl
@[simp] theorem loadStep_seq (s : State) (ph : Phase) (src : InSrc) (b : Bool) : (s.loadStep ph src b).seq = s.seq := rfl
@[simp] theorem loadStep_step (s : State) (ph : Phase) (src : InSrc) (b : Bool) : (s.loadStep ph src b).step = s.step := rfl
@[simp] theorem loadStep_err (s : State) (ph : Phase) (src : InSrc) (b : Bool) : (s.loadStep ph src b).err = s.err := rfl
@[simp] theorem loadStep_kc (s : State) (ph : Phase) (src : InSrc) (b : Bool) : (s.loadStep ph src b).kc = s.kc := rfl
@[simp] theorem loadStep_fn (s : State) (ph : Phase) (src : InSrc) (b : Bool) : (s.loadStep ph src b).fn = s.fn := rfl
@[simp] theorem loadStep_wcnt (s : State) (ph : Phase) (src : InSrc) (b : Bool) : (s.loadStep ph src b).wcnt = s.wcnt := rfl
@[simp] theorem loadStep_ncnt (s : State) (ph : Phase) (src : InSrc) (b : Bool) : (s.loadStep ph src b).ncnt = s.ncnt := rfl
@[simp] theorem loadStep_ks (s : State) (ph : Phase) (src : InSrc) (b : Bool) : (s.loadStep ph src b).ks = s.ks := rfl
@[simp] theorem loadStep_trace (s : State) (ph : Phase) (src : InSrc) (b : Bool) : (s.loadStep ph src b).trace = s.trace ++ [loadRecord ph src s.step.toNat b s.cipher] := rfl
@[simp] theorem loadStep_ports (s : State) (ph : Phase) (src : InSrc) (b : Bool) : (s.loadStep ph src b).ports = s.ports := rfl
@[simp] theorem loadStep_later (s : State) (ph : Phase) (src : InSrc) (b : Bool) : (s.loadStep ph src b).later = s.later := rfl

/-! ### irrStep -/

@[simp] theorem irrStep_cipher (s : State) (ph : Phase) (o : Option Bool) : (s.irrStep ph o).cipher = (advIrr s.cipher).next := rfl
@[simp] theorem irrStep_seq (s : State) (ph : Phase) (o : Option Bool) : (s.irrStep ph o).seq = s.seq := rfl
@[simp] theorem irrStep_step (s : State) (ph : Phase) (o : Option Bool) : (s.irrStep ph o).step = s.step := rfl
@[simp] theorem irrStep_err (s : State) (ph : Phase) (o : Option Bool) : (s.irrStep ph o).err = s.err := rfl
@[simp] theorem irrStep_kc (s : State) (ph : Phase) (o : Option Bool) : (s.irrStep ph o).kc = s.kc := rfl
@[simp] theorem irrStep_fn (s : State) (ph : Phase) (o : Option Bool) : (s.irrStep ph o).fn = s.fn := rfl
@[simp] theorem irrStep_wcnt (s : State) (ph : Phase) (o : Option Bool) : (s.irrStep ph o).wcnt = s.wcnt := rfl
@[simp] theorem irrStep_ncnt (s : State) (ph : Phase) (o : Option Bool) : (s.irrStep ph o).ncnt = s.ncnt := rfl
@[simp] theorem irrStep_ks (s : State) (ph : Phase) (o : Option Bool) : (s.irrStep ph o).ks = s.ks := rfl
@[simp] theorem irrStep_trace (s : State) (ph : Phase) (o : Option Bool) : (s.irrStep ph o).trace = s.trace ++ [irrRecord ph s.step.toNat s.cipher o] := rfl
@[simp] theorem irrStep_ports (s : State) (ph : Phase) (o : Option Bool) : (s.irrStep ph o).ports = s.ports := rfl
@[simp] theorem irrStep_later (s : State) (ph : Phase) (o : Option Bool) : (s.irrStep ph o).later = s.later := rfl

/-! ### countTo: only SEQ and STEP change -/

@[simp] theorem countTo_cipher (s : State) (l : Count) (q : Seq) : (s.countTo l q).cipher = s.cipher := by
  unfold countTo; split <;> rfl
@[simp] theorem countTo_err (s : State) (l : Count) (q : Seq) : (s.countTo l q).err = s.err := by
  unfold countTo; split <;> rfl
@[simp] theorem countTo_kc (s : State) (l : Count) (q : Seq) : (s.countTo l q).kc = s.kc := by
  unfold countTo; split <;> rfl
@[simp] theorem countTo_fn (s : State) (l : Count) (q : Seq) : (s.countTo l q).fn = s.fn := by
  unfold countTo; split <;> rfl
@[simp] theorem countTo_wcnt (s : State) (l : Count) (q : Seq) : (s.countTo l q).wcnt = s.wcnt := by
  unfold countTo; split <;> rfl
@[simp] theorem countTo_ncnt (s : State) (l : Count) (q : Seq) : (s.countTo l q).ncnt = s.ncnt := by
  unfold countTo; split <;> rfl
@[simp] theorem countTo_ks (s : State) (l : Count) (q : Seq) : (s.countTo l q).ks = s.ks := by
  unfold countTo; split <;> rfl
@[simp] theorem countTo_trace (s : State) (l : Count) (q : Seq) : (s.countTo l q).trace = s.trace := by
  unfold countTo; split <;> rfl
@[simp] theorem countTo_ports (s : State) (l : Count) (q : Seq) : (s.countTo l q).ports = s.ports := by
  unfold countTo; split <;> rfl
@[simp] theorem countTo_later (s : State) (l : Count) (q : Seq) : (s.countTo l q).later = s.later := by
  unfold countTo; split <;> rfl

/-! ### advanceInputs: only the inputs change -/

@[simp] theorem advanceInputs_cipher (s : State) : s.advanceInputs.cipher = s.cipher := by
  unfold advanceInputs; split <;> rfl
@[simp] theorem advanceInputs_seq (s : State) : s.advanceInputs.seq = s.seq := by
  unfold advanceInputs; split <;> rfl
@[simp] theorem advanceInputs_step (s : State) : s.advanceInputs.step = s.step := by
  unfold advanceInputs; split <;> rfl
@[simp] theorem advanceInputs_err (s : State) : s.advanceInputs.err = s.err := by
  unfold advanceInputs; split <;> rfl
@[simp] theorem advanceInputs_kc (s : State) : s.advanceInputs.kc = s.kc := by
  unfold advanceInputs; split <;> rfl
@[simp] theorem advanceInputs_fn (s : State) : s.advanceInputs.fn = s.fn := by
  unfold advanceInputs; split <;> rfl
@[simp] theorem advanceInputs_wcnt (s : State) : s.advanceInputs.wcnt = s.wcnt := by
  unfold advanceInputs; split <;> rfl
@[simp] theorem advanceInputs_ncnt (s : State) : s.advanceInputs.ncnt = s.ncnt := by
  unfold advanceInputs; split <;> rfl
@[simp] theorem advanceInputs_ks (s : State) : s.advanceInputs.ks = s.ks := by
  unfold advanceInputs; split <;> rfl
@[simp] theorem advanceInputs_trace (s : State) : s.advanceInputs.trace = s.trace := by
  unfold advanceInputs; split <;> rfl

/-- The inputs after an edge depend on the inputs before it alone. -/
theorem advanceInputs_inputs_congr {s u : State} (hp : s.ports = u.ports) (hl : s.later = u.later) :
    s.advanceInputs.ports = u.advanceInputs.ports ∧ s.advanceInputs.later = u.advanceInputs.later := by
  unfold advanceInputs
  rw [hl]
  cases u.later <;> simp [hp, hl]

end Sys2Proof.Machine.State
end

