-- ==== Sys2Proof/Laws/Exec.lean ====
section
/-! SUPPORT. One equation per arm of exec, and what a step is for each sampled host operation. -/

namespace Sys2Proof.Machine

theorem exec_idle (s : State) : exec .idle s = .next s := rfl
theorem exec_init (s : State) :
    exec .init s = .next (((s.withCipher Cipher.zero).appendTrace initRecord).withPosition .loadKc 1#31) := rfl
theorem exec_loadKc (s : State) :
    exec .loadKc s = .next ((s.loadStep .loadKc .kc (keyBit s.kc s.step)).countTo 16#31 .loadFn) := rfl
theorem exec_loadFn (s : State) :
    exec .loadFn s =
      .next ((s.loadStep .loadFn .fn (frameBit s.fn s.step)).countTo 8#31 (nextAfterLoad s.wcnt s.ncnt)) := rfl
theorem exec_warmup (s : State) :
    exec .warmup s = .next ((s.irrStep .warmup none).countTo s.wcnt (nextAfterWarmup s.ncnt)) := rfl
theorem exec_keystream (s : State) :
    exec .keystream s =
      .next (((s.irrStep .keystream (some (keystreamBit s.cipher))).appendKs (keystreamBit s.cipher)).countTo s.ncnt .done) :=
  rfl
theorem exec_done (s : State) : exec .done s = .next s := rfl
theorem exec_error (s : State) : exec .error s = .next s := rfl
theorem exec_reset (b : Bool) (s : State) : exec (.reset b) s = .next s.clear := rfl
theorem exec_start_busy {s : State} (h : busy s = true) : exec .start s = proceed s := by
  simp [exec, execStart, h]
theorem exec_start_ready {s : State} (h : busy s = false) : exec .start s = .next s.honourStart := by
  simp [exec, execStart, h]
theorem exec_hostNone (s : State) : exec .hostNone s = proceed s := rfl

/-- The sequencer runs the instruction whose code SEQ holds. -/
theorem proceed_of_seq {s : State} {i : Instr} (h : i.seq? = some s.seq) : proceed s = exec i s := by
  unfold proceed
  cases i <;> simp [Instr.seq?] at h <;> rw [← h] <;> rfl

/-- The host operation an edge samples. -/
theorem fetch_cases (s : State) :
    (s.ports.rst = true ∧ fetch s = .reset s.ports.start) ∨
    (s.ports.rst = false ∧ s.ports.start = true ∧ fetch s = .start) ∨
    (s.ports.rst = false ∧ s.ports.start = false ∧ fetch s = .hostNone) := by
  unfold fetch State.sampledWord
  cases s.ports.rst <;> cases s.ports.start <;> decide

theorem step_of_rst {s : State} (h : s.ports.rst = true) : step s = .next s.clear.advanceInputs := by
  rcases fetch_cases s with ⟨_, hf⟩ | ⟨h', _⟩ | ⟨h', _⟩
  · rw [step, hf, exec_reset]; rfl
  · rw [h] at h'; cases h'
  · rw [h] at h'; cases h'

theorem step_of_start {s : State} (h : s.startsNow) : step s = .next s.honourStart.advanceInputs := by
  rcases fetch_cases s with ⟨h', _⟩ | ⟨_, _, hf⟩ | ⟨_, h', _⟩
  · rw [h.1] at h'; cases h'
  · rw [step, hf, exec_start_ready h.2.2]; rfl
  · rw [h.2.1] at h'; cases h'

theorem step_of_proceed {s : State} (hr : s.ports.rst = false) (h : s.ports.start = false ∨ busy s = true) :
    step s = afterEdge (proceed s) := by
  rcases fetch_cases s with ⟨h', _⟩ | ⟨_, hs, hf⟩ | ⟨_, _, hf⟩
  · rw [hr] at h'; cases h'
  · have hb : busy s = true := by simpa [hs] using h
    rw [step, hf, exec_start_busy hb]
  · rw [step, hf, exec_hostNone]

/-- No RESET in the inputs stays so after an edge. -/
theorem noReset_advanceInputs {s : State} (h : s.noReset) : s.advanceInputs.noReset := by
  unfold State.advanceInputs
  cases hl : s.later with
  | nil => exact h
  | cons p rest =>
    refine ⟨h.2 p (by simp [hl]), fun q hq => h.2 q ?_⟩
    simp only at hq
    simp [hl, hq]

/-- The sequencer always runs one of the eight instructions of format M, and that gives a next state. -/
theorem proceed_cases (s : State) : ∃ i t, i.seq? = some s.seq ∧ proceed s = .next t ∧ exec i s = .next t := by
  unfold proceed
  cases s.seq
  exacts [⟨.idle, _, rfl, rfl, rfl⟩, ⟨.init, _, rfl, rfl, rfl⟩, ⟨.loadKc, _, rfl, rfl, rfl⟩, ⟨.loadFn, _, rfl, rfl, rfl⟩,
    ⟨.warmup, _, rfl, rfl, rfl⟩, ⟨.keystream, _, rfl, rfl, rfl⟩, ⟨.done, _, rfl, rfl, rfl⟩, ⟨.error, _, rfl, rfl, rfl⟩]

/-- Everything an instruction can be when it gives a next state: RESET, an honoured START, or one instruction of format M, which
is the instruction itself or the one whose code SEQ holds. -/
theorem exec_cases {i : Instr} {s t : State} (h : exec i s = .next t) :
    (∃ b, i = .reset b ∧ t = s.clear) ∨
    (i = .start ∧ busy s = false ∧ t = s.honourStart) ∨
    (∃ j, (j = i ∨ ((i = .hostNone ∨ i = .start ∧ busy s = true) ∧ j.seq? = some s.seq)) ∧ j.seq?.isSome = true ∧
      exec j s = .next t) := by
  have hp : proceed s = .next t → ∃ j, j.seq? = some s.seq ∧ j.seq?.isSome = true ∧ exec j s = .next t := by
    intro hp
    obtain ⟨j, t', h1, h2, h3⟩ := proceed_cases s
    rw [hp] at h2
    cases h2
    exact ⟨j, h1, by rw [h1]; rfl, h3⟩
  cases i with
  | reset b => cases h; exact .inl ⟨b, rfl, rfl⟩
  | start =>
    by_cases hb : busy s = true
    · rw [exec_start_busy hb] at h
      obtain ⟨j, a, b, c⟩ := hp h
      exact .inr (.inr ⟨j, .inr ⟨.inr ⟨rfl, hb⟩, a⟩, b, c⟩)
    · have hb : busy s = false := by simpa using hb
      rw [exec_start_ready hb] at h
      cases h
      exact .inr (.inl ⟨rfl, hb, rfl⟩)
  | hostNone =>
    obtain ⟨j, a, b, c⟩ := hp h
    exact .inr (.inr ⟨j, .inr ⟨.inl rfl, a⟩, b, c⟩)
  | _ => exact .inr (.inr ⟨_, .inl rfl, rfl, h⟩)

/-! ## The trace -/

/-- A chain stays one when a record is appended that starts where its last one ended. -/
theorem chained_snoc {l : List StepRecord} {r : StepRecord} (h : Chained l)
    (hl : ∀ a, l.getLast? = some a → r.pre = a.post) : Chained (l ++ [r]) := by
  induction l with
  | nil => trivial
  | cons a l ih =>
    cases l with
    | nil => exact ⟨hl a rfl, trivial⟩
    | cons b l => exact ⟨h.1, ih h.2 (fun x hx => hl x (by simpa using hx))⟩

/-- The inputs are no part of the invariant. -/
theorem Inv_advanceInputs {s : State} (h : s.Inv) : s.advanceInputs.Inv := by
  unfold State.advanceInputs
  split
  · exact h
  · exact ⟨h.1, h.2, h.3, h.4, h.5⟩

end Sys2Proof.Machine
end

