-- ==== Sys2Proof/Laws/Export.lean ====
section
/-! SUPPORT. What the text of a bit and of a register is. -/

namespace Sys2Proof.Machine

theorem bitText_eq (b : Bool) : bitText b = [if b then '1' else '0'] := by cases b <;> rfl

/-- The text of a register, character by character: its bits, most significant first. -/
theorem regText_eq_map {n : Nat} (r : BitVec n) :
    regText r = (List.range n).map (fun i => if r.getMsbD i then '1' else '0') := by
  unfold regText
  induction List.range n with
  | nil => rfl
  | cons i l ih => rw [List.flatMap_cons, ih, bitText_eq]; rfl

@[simp] theorem regText_length {n : Nat} (r : BitVec n) : (regText r).length = n := by
  simp [regText_eq_map]

theorem regText_getElem? {n : Nat} (r : BitVec n) {k : Nat} (h : k < n) :
    (regText r)[k]? = some (if r.getLsbD (n - 1 - k) then '1' else '0') := by
  simp [regText_eq_map, h, BitVec.getMsbD]

end Sys2Proof.Machine
end

