-- ==== Sys2Proof/Laws/PerInstr.lean ====
section
/-! SUPPORT. Statements made per instruction, one lemma per constructor. -/

namespace Sys2Proof.Laws.EncodesInWidth

/-- The word of an instruction fits the width of its format (spec/30_encoding.md section 1). -/
def Statement (i : Instr) : Prop := encode i < 2 ^ i.format.width

theorem idle : Statement .idle := by unfold Statement; decide
theorem init : Statement .init := by unfold Statement; decide
theorem loadKc : Statement .loadKc := by unfold Statement; decide
theorem loadFn : Statement .loadFn := by unfold Statement; decide
theorem warmup : Statement .warmup := by unfold Statement; decide
theorem keystream : Statement .keystream := by unfold Statement; decide
theorem done : Statement .done := by unfold Statement; decide
theorem error : Statement .error := by unfold Statement; decide
theorem reset (start : Bool) : Statement (.reset start) := by cases start <;> (unfold Statement; decide)
theorem start : Statement .start := by unfold Statement; decide
theorem hostNone : Statement .hostNone := by unfold Statement; decide

end Sys2Proof.Laws.EncodesInWidth
end

