-- ==== Sys2Proof/Tests/Slice0.lean ====
section
/-! SUPPORT. Our own tests. Expected values are the spec's: the encodings of spec/30_encoding.md and the examples and vectors of spec/95_test_vectors.md and
of the rules named at each test. Then, for every obligation with hypotheses, a witness that meets them. -/

namespace Sys2Proof.Tests

open Sys2Proof.Machine Sys2Proof.Claims

/-! ## Well-formedness: one ill-formed record for each check -/

/-- The record of `warmup 1` of the default run (spec/43_trace.md R161). -/
def warmup1 : StepRecord :=
  { phase := .warmup, step := 1, inSrc := none, inBit := none, preX := 0b10110#5, preY := 0b100101#6, preZ := 0b1110100#7,
    fbX := some true, fbY := some true, fbZ := some false, ckX := some true, ckY := some true, ckZ := some false,
    maj := some true, injX := some true, injY := some true, injZ := none,
    postX := 0b01101#5, postY := 0b001011#6, postZ := 0b1110100#7, out := none }

theorem test_wf_accepts : warmup1.wf = true ∧ initRecord.wf = true := by decide
theorem test_wf_refuses_step_zero : { warmup1 with step := 0 }.wf = false := by decide
theorem test_wf_refuses_init_step_two : { initRecord with step := 2 }.wf = false := by decide
theorem test_wf_refuses_input_in_warmup : { warmup1 with inSrc := some .kc, inBit := some true }.wf = false := by decide
theorem test_wf_refuses_missing_feedback : { warmup1 with fbZ := none }.wf = false := by decide
theorem test_wf_refuses_missing_clock_control : { warmup1 with ckY := none }.wf = false := by decide
theorem test_wf_refuses_missing_majority : { warmup1 with maj := none }.wf = false := by decide
theorem test_wf_refuses_injection_of_unclocked : { warmup1 with injZ := some false }.wf = false := by decide
theorem test_wf_refuses_output_in_warmup : { warmup1 with out := some true }.wf = false := by decide

/-! ## Decoding: words written out from R60, R61 and R62 -/

theorem test_decode_m :
    [0b000, 0b001, 0b010, 0b011, 0b100, 0b101, 0b110, 0b111].map (decode .m) =
      [.ok .idle, .ok .init, .ok .loadKc, .ok .loadFn, .ok .warmup, .ok .keystream, .ok .done, .ok .error] := by decide
theorem test_decode_h :
    [0b00, 0b01, 0b10, 0b11].map (decode .h) = [.ok .hostNone, .ok .start, .ok (.reset false), .ok (.reset true)] := by decide
theorem test_decode_too_wide : decode .m 8 = .rejected .tooWide ∧ decode .h 4 = .rejected .tooWide := by decide
/-- No two rows of the table share a word. -/
theorem test_rows_do_not_overlap :
    ∀ f ∈ [Format.m, Format.h], ∀ w ∈ List.range 8, (opcodeTable.filter (fun r => w < 2 ^ f.width && r.hit f w)).length ≤ 1 := by decide
theorem test_error_codes :
    [ErrCode.noError, .valueTooWide, .invalidCycleCount].map ErrCode.code = [0b00#2, 0b01#2, 0b10#2] := by decide
theorem test_record_width : Config.REC_W = 91 ∧ Config.CNT_W = 31 := by decide
theorem test_pack_warmup1 : packRecord warmup1 = 0x1D0B69FBBF496C00000000C#91 := by decide
theorem test_unpack_warmup1 : unpackRecord 0x1D0B69FBBF496C00000000C#91 = .ok warmup1 := by decide
theorem test_unpack_refuses :
    unpackRecord 0#91 = .rejected .notAPhase ∧ unpackRecord 0xC00000009#91 = .rejected .reservedSource ∧
    unpackRecord 0x1000000009#91 = .rejected .valueUnderNA ∧ unpackRecord 0xC#91 = .rejected .wrongFields := by decide

/-! ## One step of each instruction -/

/-- The answer when it is a next state. -/
def nextOf : Host.Outcome State Fault Refusal → Option State
  | .next t => some t
  | .fault _ => none
  | .refused _ => none

/-- A state at a position, with registers. -/
def stateAt (q : Seq) (k : Count) (x : XReg) (y : YReg) (z : ZReg) : State :=
  { State.reset with seq := q, step := k, cipher := { x := x, y := y, z := z }, kc := 0xBEEF#16, fn := 0x3A#8, wcnt := 10#31, ncnt := 8#31 }

/-- The inputs of a START with a configuration. -/
def startPorts (key frame warmup ks : CfgWord) : Ports :=
  { rst := false, start := true, cfgKey := key, cfgFrame := frame, cfgWarmup := warmup, cfgKs := ks }

/-- An idle machine whose host starts a run. -/
def starting (key frame warmup ks : CfgWord) : State := { State.reset with ports := startPorts key frame warmup ks }

/-- R101, its example: load_Kc 2 of the default run. -/
theorem test_loadKc :
    (nextOf (exec .loadKc (stateAt .loadKc 2#31 0b00001#5 0b000001#6 0b0000001#7))).map (fun t => (t.cipher, t.seq, t.step)) =
      some ({ x := 0b00010#5, y := 0b000011#6, z := 0b0000011#7 }, .loadKc, 3#31) := by decide
/-- Section 3 of 95_test_vectors.md, row load_FN 3, and R132 on the last step. -/
theorem test_loadFn :
    (nextOf (exec .loadFn (stateAt .loadFn 3#31 0b00010#5 0b100110#6 0b0010011#7))).map (fun t => (t.cipher, t.step)) =
      some ({ x := 0b00100#5, y := 0b001101#6, z := 0b0100111#7 }, 4#31) := by decide
theorem test_loadFn_hands_over :
    (nextOf (exec .loadFn { stateAt .loadFn 8#31 0b01011#5 0b010010#6 0b1111010#7 with wcnt := 0#31 })).map
      (fun t => (t.cipher, t.seq, t.step)) = some ({ x := 0b10110#5, y := 0b100101#6, z := 0b1110100#7 }, .keystream, 1#31) := by decide
/-- R161: warmup 1 of the default run; Z is not clocked. -/
theorem test_warmup :
    (nextOf (exec .warmup (stateAt .warmup 1#31 0b10110#5 0b100101#6 0b1110100#7))).map (fun t => (t.trace, t.ks)) =
      some ([warmup1], []) := by decide
/-- R104, its example: keystream 1 of the default run. -/
theorem test_keystream :
    (nextOf (exec .keystream (stateAt .keystream 1#31 0b11011#5 0b010111#6 0b0101110#7))).map (fun t => (t.cipher, t.ks, t.step)) =
      some ({ x := 0b10110#5, y := 0b101110#6, z := 0b1011101#7 }, [true], 2#31) := by decide
theorem test_keystream_ends :
    (nextOf (exec .keystream (stateAt .keystream 8#31 0b01101#5 0b001011#6 0b0100010#7))).map (fun t => (t.cipher, t.ks, t.seq)) =
      some ({ x := 0b11011#5, y := 0b010111#6, z := 0b1000101#7 }, [false], .done) := by decide
/-- R100: whatever the registers held. -/
theorem test_init :
    (nextOf (exec .init (stateAt .init 1#31 0b11111#5 0b111111#6 0b1111111#7))).map (fun t => (t.cipher, t.trace, t.seq)) =
      some (Cipher.zero, [initRecord], .loadKc) := by decide
theorem test_waiting_states :
    [Instr.idle, .done, .error].map (fun i => nextOf (exec i (stateAt .done 1#31 1#5 2#6 3#7))) =
      List.replicate 3 (some (stateAt .done 1#31 1#5 2#6 3#7)) := by decide
theorem test_reset : (nextOf (exec (.reset true) (stateAt .warmup 5#31 1#5 2#6 3#7))) = some State.reset := by decide
theorem test_hostNone :
    nextOf (exec .hostNone (stateAt .warmup 1#31 0b10110#5 0b100101#6 0b1110100#7)) =
      nextOf (exec .warmup (stateAt .warmup 1#31 0b10110#5 0b100101#6 0b1110100#7)) := by decide
/-- Vectors V-E1 and V-E11 of 95_test_vectors.md section 2.8. -/
theorem test_start_accepted :
    (nextOf (exec .start (starting 0xBEEF#32 0x3A#32 10#32 8#32))).map (fun t => (t.kc, t.fn, t.wcnt, t.ncnt, t.seq)) =
      some (0xBEEF#16, 0x3A#8, 10#31, 8#31, .init) ∧
    (nextOf (exec .start (starting 0#32 0#32 0x7FFFFFFF#32 0#32))).map (fun t => (t.wcnt, t.err)) =
      some (2147483647#31, .noError) := by decide
/-- Vectors V-E3, V-E5, V-E8, V-E9 and V-E10. -/
theorem test_start_rejected :
    [starting 0x10000#32 0x3A#32 10#32 8#32, starting 0xBEEF#32 0x100#32 10#32 8#32, starting 0xBEEF#32 0x3A#32 0x80000000#32 0#32,
      starting 0x10000#32 0x3A#32 0xFFFFFFFF#32 8#32, starting 0#32 0x100#32 0#32 0xFFFFFFFB#32].map
        (fun s => (nextOf (exec .start s)).map (fun t => (t.seq, t.err.code, t.kc, t.trace))) =
      [some (.error, 1#2, 0#16, []), some (.error, 1#2, 0#16, []), some (.error, 2#2, 0#16, []),
       some (.error, 1#2, 0#16, []), some (.error, 1#2, 0#16, [])] := by decide

/-! ## The step, and the words the host places -/

/-- The placed word is the instruction that the next step runs (log entries 3 and 4). -/
theorem test_withFetchWord_m :
    (nextOf (step (State.reset.withFetchWord 8 1))).map (fun t => t.trace) = some [initRecord] ∧
    (nextOf (step (State.reset.withFetchWord 3 5))).map (fun t => t.ks) = some [false] := by decide
theorem test_withFetchWord_h :
    (nextOf (step (State.reset.withFetchWord 2 1))).map (fun t => (t.seq, t.trace)) = some (.init, []) ∧
    nextOf (step ((stateAt .warmup 1#31 1#5 2#6 3#7).withFetchWord 2 2)) = some (State.reset.drive true false) := by decide
/-- R34, R60, R62: the ports after a completed run and after a rejected START. -/
theorem test_ports :
    (let o := outputs (stateAt .done 1#31 1#5 2#6 3#7); (o.seq, o.busy, o.done, o.err) = (6#3, false, true, 0#2)) ∧
    (let o := outputs { stateAt .error 1#31 1#5 2#6 3#7 with err := .invalidCycleCount }
     (o.seq, o.busy, o.done, o.err) = (7#3, false, false, 2#2)) := by decide
theorem test_inputs_move_on :
    (nextOf (step { starting 1#32 2#32 3#32 4#32 with later := [Ports.quiet] })).map (fun t => (t.ports, t.later)) =
      some (Ports.quiet, []) := by decide
/-- Program P2 of 95_test_vectors.md: the all-zero configuration gives zeros (S8). -/
theorem test_run_zero : (match run ⟨0, 0, 0, 4⟩ with | .ok ks _ => ks | .error _ => []) = [false, false, false, false] := by decide +kernel
/-- Program P1, the default run: "exact 43-row trace", and its keystream (the `out` column of section 3). -/
theorem test_run_default :
    (match run RunConfig.default with | .ok ks trace => (ks, trace.length) | .error _ => ([], 0)) =
      ([true, false, false, true, true, false, false, false], 43) := by decide +kernel
/-- R70, R69: one line of the listing, and the last columns of row warmup 1 (section 3) with the marker `-`. -/
theorem test_listing_line : listedText { phase := .loadKc, step := 16, input := some (.kc, true) } =
    ['l', 'o', 'a', 'd', '_', 'K', 'c', ' ', '1', '6', ' ', 'K', 'c', '=', '1'] := by decide
theorem test_export_row : (exportRowWith ['-'] warmup1).drop 13 =
    [['1'], ['1'], ['1'], ['-'], ['0', '1', '1', '0', '1'], ['0', '0', '1', '0', '1', '1'], ['1', '1', '1', '0', '1', '0', '0'], ['-']] := by
  decide

theorem test_config_line : configText RunConfig.default =
    "run key=0xBEEF frame=0x3A warmup_cycles=10 keystream_bits=8".toList ∧
    configText ⟨1, 0, 2, 6⟩ = "run key=0x0001 frame=0x00 warmup_cycles=2 keystream_bits=6".toList := by decide +kernel

/-! ## Witnesses: for every obligation with hypotheses, inputs that meet them -/

theorem test_witness_EncodeThenDecode : Instr.wf (.reset true) = true := by decide
theorem test_witness_EveryCode : (7 < 2 ^ Format.m.width ∧ 2 ^ Format.m.width ≤ 8) ∧ (3 < 2 ^ Format.h.width ∧ 2 ^ Format.h.width ≤ 4) := by decide
/-- PackedRecord: the largest step; a record with NA fields and one with an output bit. -/
theorem test_witness_PackedLayout_record :
    (let r := { warmup1 with step := 2147483647 }; r.wf = true ∧ r.step < 2 ^ 31 ∧ r.inSrc = none ∧ r.injZ = none ∧ r.fbX = some true) ∧
    (let r := irrRecord .keystream 1 Cipher.zero (some true); r.wf = true ∧ r.step < 2 ^ 31 ∧ r.out = some true) := by decide
theorem test_witness_PackedLayout : (outputs State.reset).traceValid = false ∧ (stateAt .keystream 1#31 1#5 2#6 3#7).seq = .keystream := by decide
theorem test_witness_UnpackOfPacked :
    { warmup1 with step := 2147483647 }.wf = true ∧ { warmup1 with step := 2147483647 }.step < 2 ^ 31 := by decide
theorem test_witness_AcceptedRecordWord : unpackRecord 0x9#91 = .ok initRecord := by decide
theorem test_witness_SerialBits :
    (1 ≤ (1#31).toNat ∧ (1#31).toNat ≤ 16) ∧ (1 ≤ (16#31).toNat ∧ (16#31).toNat ≤ 16) ∧ (1 ≤ (8#31).toNat ∧ (8#31).toNat ≤ 8) := by decide
/-- LOAD_KC and LOAD_FN: the first and the last step of each range. -/
theorem test_witness_LoadBits :
    (let s := stateAt .loadKc 1#31 1#5 2#6 3#7; 1 ≤ s.step.toNat ∧ s.step.toNat ≤ 8) ∧
    (let s := stateAt .loadFn 8#31 1#5 2#6 3#7; 1 ≤ s.step.toNat ∧ s.step.toNat ≤ 8) ∧
    (let s := stateAt .loadKc 16#31 1#5 2#6 3#7; 1 ≤ s.step.toNat ∧ s.step.toNat ≤ 16) := by decide
/-- The clauses of a clocked register (IrrEffect), both ways: X is clocked, Z is not. -/
theorem test_witness_ClockedIf :
    (let c : Cipher := { x := 0b10110#5, y := 0b100101#6, z := 0b1110100#7 }
     c.x.getLsbD 1 = majorityOf c ∧ c.z.getLsbD 3 ≠ majorityOf c) := by decide
/-- The clauses of the position updates: on the last step, one before it, and at the top of the counter. -/
theorem test_witness_CountsTo :
    (stateAt .loadKc 16#31 1#5 2#6 3#7).step = 16#31 ∧
    (let s := stateAt .loadKc 15#31 1#5 2#6 3#7; s.step ≠ 16#31 ∧ s.step.toNat < 2 ^ 31 - 1) ∧
    (stateAt .loadFn 8#31 1#5 2#6 3#7).step = 8#31 ∧
    (let s := stateAt .loadFn 7#31 1#5 2#6 3#7; s.step ≠ 8#31 ∧ s.step.toNat < 2 ^ 31 - 1) ∧
    (let s := stateAt .warmup 10#31 1#5 2#6 3#7; s.step = s.wcnt) ∧ (let s := stateAt .keystream 8#31 1#5 2#6 3#7; s.step = s.ncnt) ∧
    (let s := stateAt .warmup 2147483646#31 1#5 2#6 3#7; s.step ≠ s.wcnt ∧ s.step.toNat < 2 ^ 31 - 1) := by decide
theorem test_witness_SkippedPhases :
    0 < (1#31).toNat ∧ ((0#31).toNat = 0 ∧ 0 < (1#31).toNat) ∧
    (let s := { stateAt .loadFn 8#31 1#5 2#6 3#7 with wcnt := 0#31, ncnt := 0#31 }; s.wcnt.toNat = 0 ∧ s.ncnt.toNat = 0) := by decide
theorem test_witness_OnlyStartOrResetLeaves :
    ∀ q ∈ [Seq.idle, .done, .error], let s := stateAt q 1#31 1#5 2#6 3#7
      (s.seq = .idle ∨ s.seq = .done ∨ s.seq = .error) ∧ s.ports.rst = false ∧ s.ports.start = false := by decide
theorem test_witness_NoneRuns :
    ∀ q ∈ [Seq.idle, .init, .loadKc, .loadFn, .warmup, .keystream, .done, .error],
      ∃ i ∈ [Instr.idle, .init, .loadKc, .loadFn, .warmup, .keystream, .done, .error],
        decode .m (stateAt q 1#31 1#5 2#6 3#7).seq.code.toNat = .ok i := by decide
theorem test_witness_AcceptedStart :
    (let s := starting 0xFFFF#32 0xFF#32 0x7FFFFFFF#32 0#32
     busy s = false ∧ s.ports.cfgKey.toNat < 2 ^ 16 ∧ s.ports.cfgFrame.toNat < 2 ^ 8 ∧
       s.ports.cfgWarmup.getLsbD 31 = false ∧ s.ports.cfgKs.getLsbD 31 = false) := by decide
/-- The clauses of a rejected START at their boundaries. -/
theorem test_witness_RejectedStart :
    (let s := starting 0x10000#32 0xFF#32 0#32 0#32; busy s = false ∧ 2 ^ 16 ≤ s.ports.cfgKey.toNat) ∧
    (let s := starting 0xFFFF#32 0x100#32 0xFFFFFFFF#32 0#32; busy s = false ∧ 2 ^ 8 ≤ s.ports.cfgFrame.toNat) ∧
    (let s := starting 0xFFFF#32 0xFF#32 0xFFFFFFFF#32 0#32
     busy s = false ∧ s.ports.cfgKey.toNat < 2 ^ 16 ∧ s.ports.cfgFrame.toNat < 2 ^ 8 ∧ s.ports.cfgWarmup.toInt < 0) ∧
    (let s := starting 0xFFFF#32 0xFF#32 0#32 0x80000000#32
     busy s = false ∧ s.ports.cfgKey.toNat < 2 ^ 16 ∧ s.ports.cfgFrame.toNat < 2 ^ 8 ∧ s.ports.cfgKs.toInt < 0) := by decide
theorem test_witness_RejectedStartHasAnEmptyResult :
    (let s := { starting 0x10000#32 0xFF#32 0#32 0#32 with ks := [true], trace := [warmup1] }
     busy s = false ∧ validate s.ports.config = .error .valueTooWide) := by decide
theorem test_witness_Busy : busy (stateAt .init 1#31 1#5 2#6 3#7) = true ∧ busy (stateAt .keystream 8#31 1#5 2#6 3#7) = true := by decide
theorem test_witness_ResetEdge : ((stateAt .warmup 1#31 1#5 2#6 3#7).drive true true).ports.rst = true := by decide
theorem test_witness_StepRunsHostOperation :
    ∀ p ∈ [(false, false), (false, true), (true, false), (true, true)],
      ∃ i ∈ [Instr.hostNone, .start, .reset false, .reset true],
        decode .h (2 * (State.reset.drive p.1 p.2).ports.rst.toNat + (State.reset.drive p.1 p.2).ports.start.toNat) = .ok i ∧
        (nextOf (exec i (State.reset.drive p.1 p.2))).isSome = true := by decide
theorem test_witness_StepRunsMicroOperation :
    (let s := stateAt .warmup 1#31 1#5 2#6 3#7
     s.ports.rst = false ∧ s.ports.start = false ∧ decode .m s.seq.code.toNat = .ok .warmup) ∧
    (let s := (stateAt .keystream 1#31 1#5 2#6 3#7).drive false true
     s.ports.rst = false ∧ busy s = true ∧ decode .m s.seq.code.toNat = .ok .keystream) := by decide
/-- PortsShow: a keystream cycle, a load cycle, and a waiting cycle. -/
theorem test_witness_PortsShow :
    (let s := stateAt .keystream 1#31 1#5 2#6 3#7; (outputs s).ksValid = true ∧ (outputs s).traceValid = true ∧ s.ports.rst = false) ∧
    (let s := stateAt .loadKc 1#31 1#5 2#6 3#7; (outputs s).ksValid = false ∧ (outputs s).traceValid = true ∧ s.ports.start = false) ∧
    (outputs State.reset).traceValid = false := by decide
/-- OnlyStartOrReset, OnlyMicroOperations: instructions that do change a latch, and the registers. -/
theorem test_witness_OnlyStartOrResetWrites :
    ((nextOf (exec .start (starting 1#32 2#32 3#32 4#32))).map (fun t => decide (t.kc ≠ State.reset.kc))) = some true := by decide
theorem test_witness_OnlyMicroOperationsWrite :
    ((nextOf (exec .hostNone (stateAt .warmup 1#31 0b10110#5 2#6 3#7))).map (fun t => decide (t.cipher.y ≠ 2#6))) = some true := by decide
/-- KeystreamSequenceGrows, TraceIsAppendOnly: both clauses have an instruction that answers a next state. -/
theorem test_witness_KsGrows :
    RunsKeystream .keystream State.reset ∧ ¬ RunsKeystream .warmup State.reset ∧
    (nextOf (exec .keystream State.reset)).isSome = true ∧ (nextOf (exec .warmup State.reset)).isSome = true := by
  refine ⟨.inl rfl, ?_, by decide, by decide⟩
  rintro (h | ⟨h | h, _⟩) <;> cases h
theorem test_witness_NoException :
    (let s := stateAt .loadFn 8#31 1#5 2#6 3#7; busy s = true ∧ s.ports.rst = false) := by decide

/-- The second cycle of a run, INIT, meets the invariant. -/
def inInit : State := { State.reset with seq := .init, kc := 0xBEEF#16, fn := 0x3A#8, wcnt := 1#31, ncnt := 1#31 }

theorem test_witness_EveryStepKeepsTheInvariant : inInit.Inv ∧ (nextOf (step inInit)).isSome = true := by
  refine ⟨⟨rfl, ?_, rfl, rfl, ⟨fun r h => ?_, trivial⟩⟩, by decide⟩
  · exact ⟨fun _ => by decide, fun _ => rfl⟩
  · cases h

theorem test_witness_accepted_run :
    (starting 0xBEEF#32 0x3A#32 1#32 1#32).startsNow ∧ (starting 0xBEEF#32 0x3A#32 1#32 1#32).noReset ∧
    ∃ ks trace, run (starting 0xBEEF#32 0x3A#32 1#32 1#32).ports.config = .ok ks trace ∧ 27 ≤ trace.length :=
  ⟨⟨rfl, rfl, rfl⟩, ⟨rfl, fun _ h => absurd h List.not_mem_nil⟩, _, _, rfl, by decide⟩
theorem test_witness_rejected_run :
    (starting 0x10000#32 0x3A#32 1#32 1#32).startsNow ∧ (starting 0x10000#32 0x3A#32 1#32 1#32).noReset ∧
    run (starting 0x10000#32 0x3A#32 1#32 1#32).ports.config = .error .valueTooWide :=
  ⟨⟨rfl, rfl, rfl⟩, ⟨rfl, fun _ h => absurd h List.not_mem_nil⟩, rfl⟩
/-- RunHas, RunTraceIsChained, Injected: an accepted configuration, and a load and an irregular record of its run. -/
theorem test_witness_run_records :
    (match run ⟨0xFFFF, 0xFF, 1, 0⟩ with | .ok _ trace => trace.map StepRecord.phase | .error _ => []) =
      [.init] ++ List.replicate 16 .loadKc ++ List.replicate 8 .loadFn ++ [.warmup] := by decide
theorem test_witness_RunDoesNotDepend :
    (let s := starting 0xFFFF#32 0xFF#32 1#32 1#32
     let u := { stateAt .done 1#31 1#5 2#6 3#7 with ports := startPorts 0xFFFF#32 0xFF#32 1#32 1#32, trace := [warmup1] }
     s.startsNow ∧ LegalPorts s.ports ∧ busy u = false ∧ u.ports = s.ports ∧ u.later = s.later) :=
  ⟨⟨rfl, rfl, rfl⟩, by unfold LegalPorts; decide, by decide, rfl, rfl⟩
/-- ExportRow: a record in which every optional field is NA, and two in which, between them, every one has a value. -/
theorem test_witness_ExportRow :
    (let r := initRecord; [r.inBit, r.fbX, r.fbY, r.fbZ, r.ckX, r.ckY, r.ckZ, r.maj, r.injX, r.injY, r.injZ, r.out] =
      List.replicate 12 none ∧ r.inSrc = none) ∧
    (let r := loadRecord .loadKc .kc 1 true Cipher.zero
     r.inSrc = some .kc ∧ [r.inBit, r.fbX, r.fbY, r.fbZ, r.ckX, r.ckY, r.ckZ, r.injX, r.injY, r.injZ].all Option.isSome = true) ∧
    (loadRecord .loadFn .fn 8 true Cipher.zero).inSrc = some .fn ∧
    (let r := irrRecord .keystream 1 Cipher.zero (some true); r.maj = some false ∧ r.out = some true) := by decide

end Sys2Proof.Tests
end

/-! # State and ports: the statements of spec/10_state.md -/

namespace Sys2Proof.Machine

open Sys2Proof.Claims

/-! ## The status flags as facts about SEQ (R17) -/

/-- The five executing states are those that have a phase (R15, R17). -/
theorem phase_isSome_iff (q : Seq) :
    q.phase?.isSome = true ↔ q = .init ∨ q = .loadKc ∨ q = .loadFn ∨ q = .warmup ∨ q = .keystream := by
  cases q <;> simp [Seq.phase?]

theorem busy_iff (s : State) :
    busy s = true ↔ s.seq = .init ∨ s.seq = .loadKc ∨ s.seq = .loadFn ∨ s.seq = .warmup ∨ s.seq = .keystream :=
  phase_isSome_iff s.seq

theorem doneFlag_iff (s : State) : doneFlag s = true ↔ s.seq = .done := by simp [doneFlag]

theorem errorFlag_iff (s : State) : errorFlag s = true ↔ s.seq = .error := by simp [errorFlag]

/-- The three flags together: in each state of the sequencer at most one is 1, and none exactly in IDLE. -/
theorem flags_exclusive (s : State) :
    (busy s).toNat + (doneFlag s).toNat + (errorFlag s).toNat ≤ 1 ∧
    (busy s = false ∧ doneFlag s = false ∧ errorFlag s = false ↔ s.seq = .idle) := by
  unfold busy doneFlag errorFlag
  cases s.seq <;> decide

/-! ## What the instructions of format M leave unchanged, and what they append -/

/-- No instruction of format M writes ERR, KC, FN, WCNT, NCNT or the inputs. -/
theorem exec_microOp_latchesKept {j : Instr} {s t : State} (hj : j.seq?.isSome = true) (h : exec j s = .next t) :
    LatchesKept s t := by
  cases j with
  | reset _ | start | hostNone => cases hj
  | idle | done | error => cases h; exact ⟨rfl, rfl, rfl, rfl, rfl, rfl, rfl⟩
  | init => rw [exec_init] at h; cases h; simp [LatchesKept]
  | loadKc => rw [exec_loadKc] at h; cases h; simp [LatchesKept]
  | loadFn => rw [exec_loadFn] at h; cases h; simp [LatchesKept]
  | warmup => rw [exec_warmup] at h; cases h; simp [LatchesKept]
  | keystream => rw [exec_keystream] at h; cases h; simp [LatchesKept]

/-- An instruction whose sequencer state has no phase keeps everything (R136). -/
theorem exec_eq_self_of_no_phase {j : Instr} {q : Seq} {s t : State} (hj : j.seq? = some q) (hq : q.phase?.isSome = false)
    (h : exec j s = .next t) : t = s := by
  cases j with
  | reset _ | start | hostNone => cases hj
  | idle | done | error => cases h; rfl
  | init | loadKc | loadFn | warmup | keystream => cases hj; cases hq

/-- An instruction whose sequencer state has a phase is one of the five micro-operations that execute (R15). -/
theorem executing_of_phase {j : Instr} {q : Seq} (hj : j.seq? = some q) (hq : q.phase?.isSome = true) :
    j = .init ∨ j = .loadKc ∨ j = .loadFn ∨ j = .warmup ∨ j = .keystream := by
  cases j with
  | reset _ | start | hostNone => cases hj
  | idle | done | error => cases hj; cases hq
  | init | loadKc | loadFn | warmup | keystream => simp

/-- An honoured START, accepted or rejected, leaves X, Y and Z (R122, R173). -/
@[simp] theorem honourStart_cipher (s : State) : s.honourStart.cipher = s.cipher := by
  rcases honourStart_cases s with ⟨_, h⟩ | ⟨e, _, h⟩ <;> rw [h] <;> rfl

/-- The instruction whose code SEQ holds appends to KS and TRACE the bit and the record of the cycle, if there is one (R44,
R155). -/
theorem exec_appends {j : Instr} {s t : State} (hj : j.seq? = some s.seq) (h : exec j s = .next t) :
    t.ks = s.ks ++ (currentBit s).toList ∧ t.trace = s.trace ++ (currentRecord s).toList := by
  cases j with
  | reset _ | start | hostNone => cases hj
  | idle | done | error => injection hj with hq; cases h; simp [currentBit, currentRecord, ← hq]
  | init => injection hj with hq; rw [exec_init] at h; cases h; simp [currentBit, currentRecord, ← hq]
  | loadKc => injection hj with hq; rw [exec_loadKc] at h; cases h; simp [currentBit, currentRecord, ← hq]
  | loadFn => injection hj with hq; rw [exec_loadFn] at h; cases h; simp [currentBit, currentRecord, ← hq]
  | warmup => injection hj with hq; rw [exec_warmup] at h; cases h; simp [currentBit, currentRecord, ← hq]
  | keystream => injection hj with hq; rw [exec_keystream] at h; cases h; simp [currentBit, currentRecord, ← hq]

/-- An edge without RESET that honours no START appends to KS and TRACE the bit and the record of its cycle (R34, R130). -/
theorem step_appends {s : State} (hr : s.ports.rst = false) (hs : s.ports.start = false ∨ busy s = true) :
    ∃ t, step s = .next t ∧ t.ks = s.ks ++ (currentBit s).toList ∧ t.trace = s.trace ++ (currentRecord s).toList := by
  obtain ⟨i, t, hi, hp, he⟩ := proceed_cases s
  obtain ⟨hks, htrace⟩ := exec_appends hi he
  refine ⟨t.advanceInputs, ?_, by simpa using hks, by simpa using htrace⟩
  rw [step_of_proceed hr hs, hp, afterEdge]

/-! ## The output ports (R34) -/

@[simp] theorem outputs_seq (s : State) : (outputs s).seq = s.seq.code := rfl
@[simp] theorem outputs_busy (s : State) : (outputs s).busy = busy s := rfl
@[simp] theorem outputs_done (s : State) : (outputs s).done = doneFlag s := rfl
@[simp] theorem outputs_err (s : State) : (outputs s).err = s.err.code := rfl
@[simp] theorem outputs_ksValid (s : State) : (outputs s).ksValid = (currentBit s).isSome := rfl
@[simp] theorem outputs_ksBit (s : State) : (outputs s).ksBit = (currentBit s).getD false := rfl
@[simp] theorem outputs_traceValid (s : State) : (outputs s).traceValid = busy s := rfl
@[simp] theorem outputs_traceRec (s : State) :
    (outputs s).traceRec = ((currentRecord s).map packRecord).getD 0#91 := rfl

theorem seqCode_eq_seqPort (q : Seq) : q.code = seqPort q := by cases q <;> rfl

theorem errCode_eq_errPort (e : ErrCode) : e.code = errPort e := by cases e <;> rfl

theorem currentBit_isSome_iff (s : State) : (currentBit s).isSome = true ↔ s.seq = .keystream := by
  simp [currentBit]

/-- There is a record in a cycle exactly when a micro-operation executes (R155). -/
theorem currentRecord_isSome (s : State) : (currentRecord s).isSome = busy s := by
  unfold currentRecord busy
  cases s.seq <;> rfl

/-- When `ks_valid` is 1, `ks_bit` is the bit of the cycle. -/
theorem currentBit_of_ksValid {s : State} (hv : (outputs s).ksValid = true) : currentBit s = some (outputs s).ksBit := by
  obtain ⟨b, hb⟩ := Option.isSome_iff_exists.mp hv
  simp [hb]

theorem currentBit_of_not_ksValid {s : State} (hv : (outputs s).ksValid = false) : currentBit s = none := by
  simpa using hv

/-- When `trace_valid` is 1, `trace_rec` is the binary form of the record of the cycle. -/
theorem currentRecord_of_traceValid {s : State} (hv : (outputs s).traceValid = true) :
    ∃ r, currentRecord s = some r ∧ (outputs s).traceRec = packRecord r := by
  rw [outputs_traceValid, ← currentRecord_isSome] at hv
  obtain ⟨r, hr⟩ := Option.isSome_iff_exists.mp hv
  exact ⟨r, hr, by simp [hr]⟩

theorem currentRecord_of_not_traceValid {s : State} (hv : (outputs s).traceValid = false) : currentRecord s = none := by
  rw [outputs_traceValid, ← currentRecord_isSome] at hv
  simpa using hv

end Sys2Proof.Machine

namespace Sys2Proof.Proofs

open Sys2Proof.Machine Sys2Proof.Claims

/-- Settles O37: the edge appends the bit and the record of the cycle (`step_appends`), which are what `ks_bit` and `trace_rec`
show under their valid bits. -/
theorem portsShowWhatTheEdgeAppends : Obligations.PortsShowWhatTheEdgeAppends := by
  intro s
  refine ⟨seqCode_eq_seqPort _, errCode_eq_errPort _, busy_iff s, doneFlag_iff s, currentBit_isSome_iff s, ?ksZero, rfl,
    ?traceZero, fun hr hs => ?edge⟩
  case ksZero => exact fun hv => by simp [currentBit_of_not_ksValid hv]
  case traceZero => exact fun hv => by simp [currentRecord_of_not_traceValid hv]
  case edge =>
    obtain ⟨t, hstep, hks, htrace⟩ := step_appends hr hs
    refine ⟨t, hstep, fun hv => ?_, fun hv => ?_, fun hv => ?_, fun hv => ?_⟩
    · rw [hks, currentBit_of_ksValid hv, Option.toList_some]
    · rw [hks, currentBit_of_not_ksValid hv, Option.toList_none, List.append_nil]
    · obtain ⟨r, hr, hpack⟩ := currentRecord_of_traceValid hv
      exact ⟨r, by rw [htrace, hr, Option.toList_some], hpack⟩
    · rw [htrace, currentRecord_of_not_traceValid hv, Option.toList_none, List.append_nil]

/-- Settles O38: RESET and an honoured START are the two exceptions of the statement; every other instruction runs one of format
M, which keeps the latches. -/
theorem onlyStartOrResetWritesTheLatches : Obligations.OnlyStartOrResetWritesTheLatches := by
  intro i s t h hchanged
  rcases exec_cases h with ⟨b, hi, _⟩ | ⟨hi, hb, _⟩ | ⟨j, _, hj, hexec⟩
  · exact .inl ⟨b, hi⟩
  · exact .inr ⟨hi, hb⟩
  · obtain ⟨herr, hkc, hfn, hw, hn, _⟩ := exec_microOp_latchesKept hj hexec
    simp [herr, hkc, hfn, hw, hn] at hchanged

/-- Settles O39: an honoured START keeps X, Y and Z, and so does an instruction whose sequencer state has no phase; what is left
is RESET and the five executing codes, given directly or held by SEQ. -/
theorem onlyMicroOperationsOrResetWriteTheRegisters : Obligations.OnlyMicroOperationsOrResetWriteTheRegisters := by
  intro i s t h hchanged
  rcases exec_cases h with ⟨b, hi, _⟩ | ⟨_, _, ht⟩ | ⟨j, hji, hj, hexec⟩
  · tauto
  · exact absurd (by rw [ht, honourStart_cipher]) hchanged
  · obtain ⟨q, hq⟩ := Option.isSome_iff_exists.mp hj
    have hphase : q.phase?.isSome = true := by
      by_contra hno
      exact hchanged (by rw [exec_eq_self_of_no_phase hq (by simpa using hno) hexec])
    rcases hji with rfl | ⟨hi, hseq⟩
    · have hmicro := executing_of_phase hq hphase
      tauto
    · have hb : busy s = true := by
        obtain rfl : q = s.seq := Option.some.inj (hq.symm.trans hseq)
        exact hphase
      tauto

/-- Settles O32: the state after reset, field by field, and the three flags of IDLE. -/
theorem resetStateHoldsTheListedValues : Obligations.ResetStateHoldsTheListedValues := by
  and_intros <;> rfl

/-- Settles O36. -/
theorem statusFlagsAreExclusive : Obligations.StatusFlagsAreExclusive := fun s =>
  ⟨busy_iff s, doneFlag_iff s, errorFlag_iff s, flags_exclusive s⟩

/-- Settles O43: IDLE with STEP 1, no error, and an empty KS and TRACE. -/
theorem invariantHoldsAtReset : Obligations.InvariantHoldsAtReset where
  position := rfl
  err := by simp [State.errOk, State.reset]
  ks := rfl
  trace := rfl
  records := ⟨by simp [State.reset], trivial⟩

end Sys2Proof.Proofs

/-! # Serial bits and the keystream sequence: the statements of spec/20_memory.md -/

namespace Sys2Proof.Machine

open Sys2Proof.Claims

/-! ## Bit `n - s` and array index `s - 1` (R8, R42, R43) -/

/-- The two names of the bit that serial step `s`, counted from 1, takes of an n-bit word. -/
theorem getLsbD_sub_eq_getMsbD {n s : Nat} (r : BitVec n) (h1 : 1 ≤ s) (h2 : s ≤ n) :
    r.getLsbD (n - s) = r.getMsbD (s - 1) := by
  have hlt : n - s < n := by omega
  have hidx : n - 1 - (n - s) = s - 1 := by omega
  rw [BitVec.getLsbD_eq_getMsbD, hidx, decide_eq_true hlt, Bool.true_and]

/-! ## Which instruction has KEYSTREAM executed -/

/-- KEYSTREAM is the only instruction with KEYSTREAM's code (R60). -/
theorem seq?_eq_keystream_iff (j : Instr) : j.seq? = some .keystream ↔ j = .keystream := by
  cases j <;> simp [Instr.seq?]

/-- An instruction has KEYSTREAM executed exactly when the format-M instruction `j` that runs for it (`exec_cases`) is KEYSTREAM. -/
theorem runsKeystream_iff {i j : Instr} {s : State} (hj : j.seq?.isSome = true)
    (hji : j = i ∨ ((i = .hostNone ∨ i = .start ∧ busy s = true) ∧ j.seq? = some s.seq)) :
    RunsKeystream i s ↔ j = .keystream := by
  rcases hji with rfl | ⟨hi, hseq⟩
  · have hhost : ¬ (j = .hostNone ∨ j = .start) := by rintro (rfl | rfl) <;> cases hj
    simp [RunsKeystream, hhost]
  · rw [← seq?_eq_keystream_iff, hseq, Option.some_inj]
    rcases hi with rfl | ⟨rfl, _⟩ <;> simp [RunsKeystream]

theorem not_runsKeystream_reset (b : Bool) (s : State) : ¬ RunsKeystream (.reset b) s := by simp [RunsKeystream]

/-- A START that is honoured has no KEYSTREAM executed: in KEYSTREAM the engine is busy (R17). -/
theorem not_runsKeystream_start_of_not_busy {s : State} (hb : busy s = false) : ¬ RunsKeystream .start s := by
  rintro (h | ⟨_, hseq⟩)
  · cases h
  · simp [busy, hseq, Seq.phase?] at hb

/-! ## What becomes of KS -/

/-- KEYSTREAM appends its output bit (R44, R104). -/
theorem exec_keystream_ks {s t : State} (h : exec .keystream s = .next t) : t.ks = s.ks ++ [keystreamBit s.cipher] := by
  rw [exec_keystream] at h
  cases h
  simp

/-- Every other instruction of format M keeps KS. -/
theorem exec_microOp_ks_of_ne_keystream {j : Instr} {s t : State} (hj : j.seq?.isSome = true) (hne : j ≠ .keystream)
    (h : exec j s = .next t) : t.ks = s.ks := by
  cases j with
  | reset _ | start | hostNone => cases hj
  | keystream => exact absurd rfl hne
  | idle | done | error => cases h; rfl
  | init => rw [exec_init] at h; cases h; simp
  | loadKc => rw [exec_loadKc] at h; cases h; simp
  | loadFn => rw [exec_loadFn] at h; cases h; simp
  | warmup => rw [exec_warmup] at h; cases h; simp

/-- An honoured START empties KS when accepted (R122) and keeps it when rejected (R173). -/
theorem honourStart_ks (s : State) : s.honourStart.ks = [] ∨ s.honourStart.ks = s.ks := by
  rcases honourStart_cases s with ⟨_, h⟩ | ⟨e, _, h⟩
  · exact .inl (by rw [h, State.acceptStart_ks])
  · exact .inr (by rw [h, State.raiseConfig_ks])

end Sys2Proof.Machine

namespace Sys2Proof.Proofs

open Sys2Proof.Machine Sys2Proof.Claims

/-- Settles O40: RESET and an honoured START do not run KEYSTREAM, and empty or keep KS; every other instruction runs one of
format M, which appends a bit exactly when it is KEYSTREAM. -/
theorem keystreamSequenceGrowsOnlyInKeystream : Obligations.KeystreamSequenceGrowsOnlyInKeystream := by
  intro i s t h
  rcases exec_cases h with ⟨b, rfl, rfl⟩ | ⟨rfl, hb, rfl⟩ | ⟨j, hji, hj, hexec⟩
  · exact ⟨fun hrun => absurd hrun (not_runsKeystream_reset b s), fun _ => .inr ⟨State.clear_ks s, .inl ⟨b, rfl⟩⟩⟩
  · refine ⟨fun hrun => absurd hrun (not_runsKeystream_start_of_not_busy hb), fun _ => ?_⟩
    rcases honourStart_ks s with hks | hks
    · exact .inr ⟨hks, .inr ⟨rfl, hb⟩⟩
    · exact .inl hks
  · rw [runsKeystream_iff hj hji]
    refine ⟨?_, fun hne => .inl (exec_microOp_ks_of_ne_keystream hj hne hexec)⟩
    rintro rfl
    exact ⟨_, exec_keystream_ks hexec⟩

/-- Settles O14: in its range the serial bit is bit `n - s` of the latch, and that is array index `s - 1`. -/
theorem serialBitsComeMostSignificantFirst : Obligations.SerialBitsComeMostSignificantFirst := by
  refine ⟨fun kc s h1 h2 => ?_, fun fn s h1 h2 => ?_⟩
  · rw [keyBit_of_range h1 h2]
    exact ⟨rfl, getLsbD_sub_eq_getMsbD kc h1 h2⟩
  · rw [frameBit_of_range h1 h2]
    exact ⟨rfl, getLsbD_sub_eq_getMsbD fn h1 h2⟩

end Sys2Proof.Proofs

/-! # Decoder and encoder: the statements of spec/30_encoding.md -/

namespace Sys2Proof

/-! ## Formats M and H: `encode` is onto the words of a format, and `decode` inverts it (R60, R61, R67) -/

/-- Each constructor's word meets its own row of the opcode table first; RESET's row passes bit 0 of the word on as its bit s
(log entry 17). -/
theorem decode_encode (i : Instr) : decode i.format (encode i) = .ok i := by
  cases i with
  | idle | init | loadKc | loadFn | warmup | keystream | done | error => rfl
  | reset s => cases s <;> rfl
  | start | hostNone => rfl

theorem decode_of_tooWide {f : Format} {w : Nat} (h : 2 ^ f.width ≤ w) : decode f w = .rejected .tooWide :=
  if_neg (Nat.not_lt.mpr h)

/-- No code of a format is unassigned (R61, R67): the eight words of format M and the four of format H, in order. -/
theorem exists_encode_eq {f : Format} {w : Nat} (h : w < 2 ^ f.width) : ∃ i : Instr, i.format = f ∧ encode i = w := by
  cases f with
  | m =>
    have hw : w < 8 := h
    interval_cases w
    exacts [⟨.idle, rfl, rfl⟩, ⟨.init, rfl, rfl⟩, ⟨.loadKc, rfl, rfl⟩, ⟨.loadFn, rfl, rfl⟩, ⟨.warmup, rfl, rfl⟩,
      ⟨.keystream, rfl, rfl⟩, ⟨.done, rfl, rfl⟩, ⟨.error, rfl, rfl⟩]
  | h =>
    have hw : w < 4 := h
    interval_cases w
    exacts [⟨.hostNone, rfl, rfl⟩, ⟨.start, rfl, rfl⟩, ⟨.reset false, rfl, rfl⟩, ⟨.reset true, rfl, rfl⟩]

end Sys2Proof

namespace Sys2Proof.Machine

open Sys2Proof.Claims

/-! ## The step in terms of the decoded pair `{rst, start}` (R61) -/

theorem fetch_of_decode {s : State} {i : Instr} (h : decode .h s.sampledWord = .ok i) : fetch s = i := by
  simp only [fetch, h]

/-- The statements' `nextInputs` is the model's own move of the inputs (log entry 1). -/
theorem nextInputs_eq_advanceInputs (t : State) : nextInputs t = t.advanceInputs := by
  unfold nextInputs State.advanceInputs
  cases t.later <;> rfl

end Sys2Proof.Machine

namespace Sys2Proof.Proofs

open Sys2Proof.Machine Sys2Proof.Claims

/-- Settles O1: `decode` inverts `encode` on every instruction. -/
theorem encodeThenDecodeGivesTheInstruction : Obligations.EncodeThenDecodeGivesTheInstruction := fun i _ =>
  decode_encode i

/-- Settles O2: a word of the format is some instruction's encoding, and that instruction is what it decodes to. -/
theorem everyCodeIsAssignedAndEncodesBack : Obligations.EveryCodeIsAssignedAndEncodesBack := by
  refine fun f w => ⟨fun h => ?_, decode_of_tooWide⟩
  obtain ⟨i, rfl, rfl⟩ := exists_encode_eq h
  exact ⟨i, decode_encode i, rfl, rfl⟩

/-- Settles O3: each word of the list is the encoding of its instruction. -/
theorem tableWordsDecodeAsListed : Obligations.TableWordsDecodeAsListed :=
  ⟨decode_encode .idle, decode_encode .init, decode_encode .loadKc, decode_encode .loadFn, decode_encode .warmup,
    decode_encode .keystream, decode_encode .done, decode_encode .error, decode_encode .hostNone, decode_encode .start,
    decode_encode (.reset false), decode_encode (.reset true)⟩

/-- Settles O33: the step fetches what the pair decodes to, executes it, and moves the inputs on. -/
theorem stepRunsTheSampledHostOperation : Obligations.StepRunsTheSampledHostOperation := by
  intro s t i hdecode hexec
  rw [step, fetch_of_decode hdecode, hexec, nextInputs_eq_advanceInputs, afterEdge]

end Sys2Proof.Proofs

/-! # Datapath functions: the statements of spec/40_datapath_functions.md -/

namespace Sys2Proof.Machine

open Sys2Proof.Claims

/-! ## Majority and enables (R84, R86) -/

theorem maj_eq_atLeastTwo (a b c : Bool) : maj a b c = decide (2 ≤ a.toNat + b.toNat + c.toNat) := by
  cases a <;> cases b <;> cases c <;> rfl

/-- The model's majority of the clock-control bits is the statements' count of them. -/
theorem majority_eq_majorityOf (c : Cipher) : majority c = majorityOf c :=
  maj_eq_atLeastTwo (ckX c.x) (ckY c.y) (ckZ c.z)

/-- The model's clock enables in the words of the statements. -/
theorem enables_eq (c : Cipher) :
    enables c = { x := c.x.getLsbD 1 == majorityOf c, y := c.y.getLsbD 2 == majorityOf c,
                  z := c.z.getLsbD 3 == majorityOf c } := by
  rw [← majority_eq_majorityOf]
  rfl

/-! ## The shift, and a register of an irregular step (R85, R106) -/

theorem shiftedBy_shiftIn {n : Nat} (r : BitVec (n + 1)) (j : Bool) : ShiftedBy r (shiftIn r j) j :=
  ⟨shiftIn_getLsbD_zero r j, shiftIn_getLsbD_succ r j⟩

theorem shiftIn_toNat {n : Nat} (r : BitVec n) (j : Bool) : (shiftIn r j).toNat = (2 * r.toNat + j.toNat) % 2 ^ n := by
  rw [shiftIn, BitVec.toNat_setWidth, BitVec.toNat_concat, Nat.mul_comm]

/-- Above bit 0, a clocked register holds the bit below, and another its own. -/
theorem clocked_getLsbD_succ {n : Nat} (en : Bool) (r : BitVec n) (fb : Bool) (k : Nat) (h : k + 1 < n) :
    (clocked en r fb).getLsbD (k + 1) = if en then r.getLsbD k else r.getLsbD (k + 1) := by
  cases en with
  | true => exact shiftIn_getLsbD_succ r fb k h
  | false => rfl

end Sys2Proof.Machine

namespace Sys2Proof.Proofs

open Sys2Proof.Machine Sys2Proof.Claims

/-- Settles O8: the array indices name the same bits by definition (R8), and each table is compared value by value, 32, 64 and 128
of them. -/
theorem feedbackTapsAndTruthTables : Obligations.FeedbackTapsAndTruthTables := by
  refine ⟨fun x => ⟨rfl, rfl, ?tableX⟩, fun y => ⟨rfl, rfl, ?tableY⟩, fun z => ⟨rfl, rfl, ?tableZ⟩⟩
  case tableX => revert x; decide
  case tableY => revert y; decide
  case tableZ => revert z; decide

/-- Settles O9: array index 3 names the tapped bit by definition (R8), and `advIrr` taps the registers it is given. -/
theorem clockControlTaps : Obligations.ClockControlTaps :=
  ⟨fun _ => ⟨rfl, rfl⟩, fun _ => ⟨rfl, rfl⟩, fun _ => ⟨rfl, rfl⟩, fun _ => rfl⟩

/-- Settles O10. -/
theorem majorityIsAtLeastTwo : Obligations.MajorityIsAtLeastTwo := maj_eq_atLeastTwo

/-- Settles O11. -/
theorem shiftDropsTheTopBitAndAppends : Obligations.ShiftDropsTheTopBitAndAppends := fun _ r j =>
  ⟨shiftedBy_shiftIn r j, shiftIn_toNat r j⟩

/-- Settles O12: the enables in the words of the statement, and the model's count of them. -/
theorem enablesClockTwoOrThreeRegisters : Obligations.EnablesClockTwoOrThreeRegisters := by
  intro c
  rw [enables_eq]
  exact ⟨rfl, rfl, rfl, two_or_three_clocked c⟩

/-- Settles O13: each register's top bit after the step is the bit below the top or the top bit, by its enable. -/
theorem outputBitIsOfThePostStepRegisters : Obligations.OutputBitIsOfThePostStepRegisters := by
  intro c
  refine ⟨rfl, rfl, ?_⟩
  have hx : (advIrr c).next.x.getLsbD 4 = if (enables c).x then c.x.getLsbD 3 else c.x.getLsbD 4 :=
    clocked_getLsbD_succ _ c.x _ 3 (by decide)
  have hy : (advIrr c).next.y.getLsbD 5 = if (enables c).y then c.y.getLsbD 4 else c.y.getLsbD 5 :=
    clocked_getLsbD_succ _ c.y _ 4 (by decide)
  have hz : (advIrr c).next.z.getLsbD 6 = if (enables c).z then c.z.getLsbD 5 else c.z.getLsbD 6 :=
    clocked_getLsbD_succ _ c.z _ 5 (by decide)
  simp only [keystreamBit, outBit, hx, hy, hz, enables_eq, beq_iff_eq]

end Sys2Proof.Proofs

/-! # Micro-operations and the records of a run: the statements of spec/41_advance_ops.md -/

namespace Sys2Proof.Machine

open Sys2Proof.Claims

/-! ## The load step (R101, R102, R105) -/

/-- Load mode shifts each register with its own injected bit. -/
theorem advLoad_shiftedBy (c : Cipher) (b : Bool) :
    ShiftedBy c.x (advLoad c b).next.x (advLoad c b).inj.x ∧ ShiftedBy c.y (advLoad c b).next.y (advLoad c b).inj.y ∧
    ShiftedBy c.z (advLoad c b).next.z (advLoad c b).inj.z :=
  ⟨shiftedBy_shiftIn c.x _, shiftedBy_shiftIn c.y _, shiftedBy_shiftIn c.z _⟩

/-- The model's load record is the one the statements list. -/
theorem loadRecord_eq_spec (ph : Phase) (src : InSrc) (k : Nat) (b : Bool) (c : Cipher) :
    loadRecord ph src k b c = loadRecordSpec ph src k b c (advLoad c b).next := rfl

/-- The effect of a load step is the load transition, its record, and nothing else. -/
theorem loadEffect_of_advLoad {ph : Phase} {src : InSrc} {b : Bool} {s t : State}
    (hcipher : t.cipher = (advLoad s.cipher b).next)
    (htrace : t.trace = s.trace ++ [loadRecord ph src s.step.toNat b s.cipher]) (hks : t.ks = s.ks)
    (hkept : LatchesKept s t) : LoadEffect ph src b s t := by
  obtain ⟨hx, hy, hz⟩ := advLoad_shiftedBy s.cipher b
  rw [loadRecord_eq_spec, ← hcipher] at htrace
  rw [← hcipher] at hx hy hz
  exact ⟨hx, hy, hz, htrace, hks, hkept⟩

/-! ## The irregular step (R103, R104, R106) -/

/-- Enabled by `ck == m`, a register and its injected field are what R106 says. -/
theorem clockedIf_clocked {n : Nat} (ck m fb : Bool) (r : BitVec (n + 1)) :
    ClockedIf ck m fb r (clocked (ck == m) r fb) (injected (ck == m) fb) := by
  refine ⟨fun heq => ?_, fun hne => ?_⟩
  · rw [beq_iff_eq.mpr heq]
    exact ⟨shiftedBy_shiftIn r fb, rfl⟩
  · rw [beq_eq_false_iff_ne.mpr hne]
    exact ⟨rfl, rfl⟩

/-- The irregular transition does to each of the three registers what R106 says. -/
theorem advIrr_clockedIf (c : Cipher) :
    ClockedIf (c.x.getLsbD 1) (majorityOf c) (fbX c.x) c.x (advIrr c).next.x (advIrr c).inj.x ∧
    ClockedIf (c.y.getLsbD 2) (majorityOf c) (fbY c.y) c.y (advIrr c).next.y (advIrr c).inj.y ∧
    ClockedIf (c.z.getLsbD 3) (majorityOf c) (fbZ c.z) c.z (advIrr c).next.z (advIrr c).inj.z := by
  rw [← majority_eq_majorityOf]
  exact ⟨clockedIf_clocked _ _ _ c.x, clockedIf_clocked _ _ _ c.y, clockedIf_clocked _ _ _ c.z⟩

/-- An irregular step has as many injected bits as clocked registers. -/
theorem advIrr_inj_count (c : Cipher) :
    (advIrr c).inj.x.isSome.toNat + (advIrr c).inj.y.isSome.toNat + (advIrr c).inj.z.isSome.toNat = clockedCount c := by
  simp [advIrr, clockedCount]

/-- The effect of an irregular step is the irregular transition, its record, and nothing else but KS. -/
theorem irrEffect_of_advIrr {ph : Phase} {out : Option Bool} {s t : State} (hcipher : t.cipher = (advIrr s.cipher).next)
    (htrace : t.trace = s.trace ++ [irrRecord ph s.step.toNat s.cipher out]) (hkept : LatchesKept s t) :
    IrrEffect ph out s t := by
  obtain ⟨hx, hy, hz⟩ := advIrr_clockedIf s.cipher
  have hcount : 2 ≤ clockedCount s.cipher := by
    rcases two_or_three_clocked s.cipher with h | h <;> omega
  rw [← hcipher] at hx hy hz
  refine ⟨_, _, _, hx, hy, hz, ?record, by rwa [advIrr_inj_count], hkept⟩
  case record =>
    rw [htrace, hcipher, ← majority_eq_majorityOf]
    rfl

end Sys2Proof.Machine

namespace Sys2Proof.Proofs

open Sys2Proof.Machine Sys2Proof.Claims

/-- Settles O16: one load step with the key bit, whose position update changes SEQ and STEP alone. -/
theorem loadKcShiftsAllThreeWithTheKeyBit : Obligations.LoadKcShiftsAllThreeWithTheKeyBit := fun s =>
  ⟨_, keyBit s.kc s.step, exec_loadKc s, keyBit_of_range,
    loadEffect_of_advLoad (by simp) (by simp) (by simp) (exec_microOp_latchesKept rfl (exec_loadKc s))⟩

/-- Settles O17: one load step with the frame bit, whose position update changes SEQ and STEP alone. -/
theorem loadFnShiftsAllThreeWithTheFrameBit : Obligations.LoadFnShiftsAllThreeWithTheFrameBit := fun s =>
  ⟨_, frameBit s.fn s.step, exec_loadFn s, frameBit_of_range,
    loadEffect_of_advLoad (by simp) (by simp) (by simp) (exec_microOp_latchesKept rfl (exec_loadFn s))⟩

/-- Settles O18: one irregular step without output, whose position update changes SEQ and STEP alone. -/
theorem warmupClocksByMajorityWithoutOutput : Obligations.WarmupClocksByMajorityWithoutOutput := fun s =>
  ⟨_, exec_warmup s, irrEffect_of_advIrr (by simp) (by simp) (exec_microOp_latchesKept rfl (exec_warmup s)), by simp⟩

/-- Settles O19: one irregular step whose record and KS get the output bit of the registers it leaves. -/
theorem keystreamAppendsThePostStepOutputBit : Obligations.KeystreamAppendsThePostStepOutputBit := fun s =>
  ⟨_, keystreamBit s.cipher, exec_keystream s, by simp [keystreamBit, outBit],
    irrEffect_of_advIrr (by simp) (by simp) (exec_microOp_latchesKept rfl (exec_keystream s)), by simp⟩

/-- Settles O15: the model's `Cipher.zero` and `initRecord` are the literals of the statement. -/
theorem initZeroesTheRegisters : Obligations.InitZeroesTheRegisters := exec_init

/-- Settles O53. -/
theorem loadTransitionShiftsAllThreeRegisters : Obligations.LoadTransitionShiftsAllThreeRegisters := fun c b =>
  ⟨rfl, rfl, advLoad_shiftedBy c b⟩

end Sys2Proof.Proofs

namespace Sys2Proof.Machine

open Sys2Proof.Claims

/-! ## An accepted `Run` (R138) -/

/-- What `Run` returns for an accepted configuration. -/
theorem run_ok_eq {c : RunConfig} {ks : List Bool} {trace : List StepRecord} (h : run c = .ok ks trace) :
    acceptedRun c.key c.frame c.warmupCycles.toNat c.keystreamBits.toNat = (ks, trace) := by
  unfold run at h
  split at h
  · cases h
  · cases h
    rfl

/-- The keystream of a run is the output fields of its records: only the keystream records have one (R152). -/
theorem acceptedRun_out (key frame w n : Nat) :
    (acceptedRun key frame w n).1 = (acceptedRun key frame w n).2.filterMap StepRecord.out := by
  simp only [acceptedRun]
  rw [List.filterMap_cons_none rfl]
  simp only [List.filterMap_append, loadSteps_out, warmupSteps_out, keystreamSteps_out, List.nil_append]

/-! ## Chaining (R157) -/

/-- The records are chained, and the first starts from the registers `c`. -/
def ChainedFrom : Cipher → List StepRecord → Prop
  | _, [] => True
  | c, r :: rest => r.pre = c ∧ ChainedFrom r.post rest

/-- A chain is a record and records chained from where it ends. -/
theorem chained_cons_iff (a : StepRecord) (l : List StepRecord) : Chained (a :: l) ↔ ChainedFrom a.post l := by
  induction l generalizing a with
  | nil => exact Iff.rfl
  | cons b l ih => exact and_congr_right fun _ => ih b

theorem chainedFrom_loadSteps_append (ph : Phase) (src : InSrc) (bit : Nat → Bool) (n s : Nat) (c : Cipher)
    {l : List StepRecord} (h : ChainedFrom (loadSteps ph src bit n s c).1 l) :
    ChainedFrom c ((loadSteps ph src bit n s c).2 ++ l) := by
  induction n generalizing s c with
  | zero => exact h
  | succ n ih => exact ⟨rfl, ih (s + 1) _ h⟩

theorem chainedFrom_warmupSteps_append (n s : Nat) (c : Cipher) {l : List StepRecord}
    (h : ChainedFrom (warmupSteps n s c).1 l) : ChainedFrom c ((warmupSteps n s c).2 ++ l) := by
  induction n generalizing s c with
  | zero => exact h
  | succ n ih => exact ⟨rfl, ih (s + 1) _ h⟩

theorem chainedFrom_keystreamSteps (n s : Nat) (c : Cipher) : ChainedFrom c (keystreamSteps n s c).2 := by
  induction n generalizing s c with
  | zero => trivial
  | succ n ih => exact ⟨rfl, ih (s + 1) _⟩

/-- Each phase of a run starts from the registers that the one before it leaves, the first from zero. -/
theorem acceptedRun_chained (key frame w n : Nat) : Chained (acceptedRun key frame w n).2 := by
  simp only [acceptedRun, List.append_assoc]
  rw [chained_cons_iff]
  exact chainedFrom_loadSteps_append _ _ _ _ _ _ <| chainedFrom_loadSteps_append _ _ _ _ _ _ <|
    chainedFrom_warmupSteps_append _ _ _ <| chainedFrom_keystreamSteps _ _ _

/-! ## What the records of a run are -/

/-- The record of a load step from some registers, with some external bit (R101, R102). -/
def IsLoadRecord (ph : Phase) (src : InSrc) (r : StepRecord) : Prop := ∃ k b c, r = loadRecord ph src k b c

/-- The record of an irregular step from some registers (R103, R104). -/
def IsIrrRecord (ph : Phase) (r : StepRecord) : Prop := ∃ k c out, r = irrRecord ph k c out

theorem isLoadRecord_of_mem_loadSteps {ph : Phase} {src : InSrc} {bit : Nat → Bool} {n s : Nat} {c : Cipher}
    {r : StepRecord} (h : r ∈ (loadSteps ph src bit n s c).2) : IsLoadRecord ph src r := by
  induction n generalizing s c with
  | zero => cases h
  | succ n ih =>
    rcases List.mem_cons.mp h with rfl | h
    · exact ⟨_, _, _, rfl⟩
    · exact ih h

theorem isIrrRecord_of_mem_warmupSteps {n s : Nat} {c : Cipher} {r : StepRecord} (h : r ∈ (warmupSteps n s c).2) :
    IsIrrRecord .warmup r := by
  induction n generalizing s c with
  | zero => cases h
  | succ n ih =>
    rcases List.mem_cons.mp h with rfl | h
    · exact ⟨_, _, _, rfl⟩
    · exact ih h

theorem isIrrRecord_of_mem_keystreamSteps {n s : Nat} {c : Cipher} {r : StepRecord}
    (h : r ∈ (keystreamSteps n s c).2) : IsIrrRecord .keystream r := by
  induction n generalizing s c with
  | zero => cases h
  | succ n ih =>
    rcases List.mem_cons.mp h with rfl | h
    · exact ⟨_, _, _, rfl⟩
    · exact ih h

/-- A record of a run is the init record or the record of a step of one of the four other phases. -/
theorem mem_acceptedRun_cases {key frame w n : Nat} {r : StepRecord} (h : r ∈ (acceptedRun key frame w n).2) :
    r = initRecord ∨ IsLoadRecord .loadKc .kc r ∨ IsLoadRecord .loadFn .fn r ∨ IsIrrRecord .warmup r ∨
      IsIrrRecord .keystream r := by
  simp only [acceptedRun, List.mem_cons, List.mem_append] at h
  rcases h with h | ((h | h) | h) | h
  · exact .inl h
  · exact .inr (.inl (isLoadRecord_of_mem_loadSteps h))
  · exact .inr (.inr (.inl (isLoadRecord_of_mem_loadSteps h)))
  · exact .inr (.inr (.inr (.inl (isIrrRecord_of_mem_warmupSteps h))))
  · exact .inr (.inr (.inr (.inr (isIrrRecord_of_mem_keystreamSteps h))))

/-! ## The injected fields of a record (R108) -/

/-- `InjectionOk` of all three registers of a record. -/
def InjectionsOk (r : StepRecord) : Prop :=
  InjectionOk r.phase r.ckX r.maj r.injX r.preX r.postX ∧ InjectionOk r.phase r.ckY r.maj r.injY r.preY r.postY ∧
  InjectionOk r.phase r.ckZ r.maj r.injZ r.preZ r.postZ

/-- A register of the init record: no injected bit, and R108 says nothing more of it. -/
theorem injectionOk_init {n : Nat} (ck m : Option Bool) (pre post : BitVec n) :
    InjectionOk .init ck m none pre post :=
  ⟨by simp, by simp, by simp⟩

/-- A register that a load step shifts with its injected bit. -/
theorem injectionOk_of_shiftedBy {n : Nat} {ph : Phase} (hph : ph = .loadKc ∨ ph = .loadFn) (ck m : Option Bool) {j : Bool}
    {pre post : BitVec n} (h : ShiftedBy pre post j) : InjectionOk ph ck m (some j) pre post := by
  refine ⟨fun _ => rfl, fun hirr => ?_, fun j' hj => ?_⟩
  · rcases hph with rfl | rfl <;> simp at hirr
  · cases hj
    exact h

/-- A register that an irregular step shifts or leaves by its clock-control bit. -/
theorem injectionOk_of_clockedIf {n : Nat} {ph : Phase} (hph : ph = .warmup ∨ ph = .keystream) {ck m fb : Bool}
    {inj : Option Bool} {pre post : BitVec n} (h : ClockedIf ck m fb pre post inj) :
    InjectionOk ph (some ck) (some m) inj pre post := by
  have hload : ¬ (ph = .loadKc ∨ ph = .loadFn) := by rcases hph with rfl | rfl <;> simp
  obtain ⟨hclocked, hheld⟩ := h
  by_cases heq : ck = m
  · obtain ⟨hshift, rfl⟩ := hclocked heq
    exact ⟨fun h => absurd h hload, fun _ => ⟨by simp [heq], by simp⟩, fun j hj => by cases hj; exact hshift⟩
  · obtain ⟨hsame, rfl⟩ := hheld heq
    exact ⟨fun h => absurd h hload, fun _ => ⟨by simp [heq], fun _ => hsame⟩, by simp⟩

theorem initRecord_injectionsOk : InjectionsOk initRecord :=
  ⟨injectionOk_init _ _ _ _, injectionOk_init _ _ _ _, injectionOk_init _ _ _ _⟩

theorem injectionsOk_of_isLoadRecord {ph : Phase} (hph : ph = .loadKc ∨ ph = .loadFn) {src : InSrc} {r : StepRecord}
    (h : IsLoadRecord ph src r) : InjectionsOk r := by
  obtain ⟨k, b, c, rfl⟩ := h
  obtain ⟨hx, hy, hz⟩ := advLoad_shiftedBy c b
  exact ⟨injectionOk_of_shiftedBy hph _ _ hx, injectionOk_of_shiftedBy hph _ _ hy, injectionOk_of_shiftedBy hph _ _ hz⟩

theorem injectionsOk_of_isIrrRecord {ph : Phase} (hph : ph = .warmup ∨ ph = .keystream) {r : StepRecord}
    (h : IsIrrRecord ph r) : InjectionsOk r := by
  obtain ⟨k, c, out, rfl⟩ := h
  obtain ⟨hx, hy, hz⟩ := advIrr_clockedIf c
  rw [← majority_eq_majorityOf] at hx hy hz
  exact ⟨injectionOk_of_clockedIf hph hx, injectionOk_of_clockedIf hph hy, injectionOk_of_clockedIf hph hz⟩

end Sys2Proof.Machine

namespace Sys2Proof.Proofs

open Sys2Proof.Machine Sys2Proof.Claims

/-- Settles O49: the phases are chained one to the next (`acceptedRun_chained`), and only keystream records have an output. -/
theorem runTraceIsChained : Obligations.RunTraceIsChained := by
  intro c ks trace h
  have hrun := run_ok_eq h
  have hchained := acceptedRun_chained c.key c.frame c.warmupCycles.toNat c.keystreamBits.toNat
  have hout := acceptedRun_out c.key c.frame c.warmupCycles.toNat c.keystreamBits.toNat
  have hhead : (acceptedRun c.key c.frame c.warmupCycles.toNat c.keystreamBits.toNat).2.head? = some initRecord := rfl
  rw [hrun] at hchained hout hhead
  exact ⟨hchained, hhead, rfl, rfl, hout⟩

/-- Settles O50: a record of the run is the init record, a load record or an irregular record (`mem_acceptedRun_cases`). -/
theorem injectedFieldsTellWhatWasShifted : Obligations.InjectedFieldsTellWhatWasShifted := by
  intro c ks trace h r hr
  have hmem : r ∈ (acceptedRun c.key c.frame c.warmupCycles.toNat c.keystreamBits.toNat).2 := by rwa [run_ok_eq h]
  rcases mem_acceptedRun_cases hmem with rfl | hkc | hfn | hw | hk
  · exact initRecord_injectionsOk
  · exact injectionsOk_of_isLoadRecord (.inl rfl) hkc
  · exact injectionsOk_of_isLoadRecord (.inr rfl) hfn
  · exact injectionsOk_of_isIrrRecord (.inl rfl) hw
  · exact injectionsOk_of_isIrrRecord (.inr rfl) hk

end Sys2Proof.Proofs

/-! # The sequencer: the statements of spec/42_sequencer.md -/

namespace Sys2Proof.Machine

open Sys2Proof.Claims

/-! ## The position updates (R131 to R135) -/

/-- `countTo`, after an operation that leaves SEQ and STEP alone, is the position update of the statements. -/
theorem countsTo_countTo {s u : State} (hseq : u.seq = s.seq) (hstep : u.step = s.step) (last : Count) (q : Seq) :
    CountsTo last q s (u.countTo last q) := by
  refine ⟨fun heq => ?_, fun hne => ?_⟩
  · rw [countTo_of_eq (hstep.trans heq)]
    exact ⟨rfl, rfl⟩
  · rw [countTo_of_ne (by rwa [hstep])]
    exact ⟨hseq, fun hlt => by rw [State.withStep_step, hstep, nextStep_toNat hlt]⟩

/-- Up to `last`, STEP hands over from `last` or goes up by one, still up to `last`; the counter's top is never reached. -/
theorem countsTo_cases {last : Count} {q : Seq} {s t : State} (h : CountsTo last q s t)
    (hle : s.step.toNat ≤ last.toNat) :
    (s.step.toNat = last.toNat ∧ t.seq = q ∧ t.step = 1#31) ∨
    (s.step.toNat < last.toNat ∧ t.seq = s.seq ∧ t.step.toNat = s.step.toNat + 1) := by
  obtain ⟨hlast, hcount⟩ := h
  by_cases heq : s.step = last
  · exact .inl ⟨by rw [heq], hlast heq⟩
  · have hlt : s.step.toNat < last.toNat := lt_of_le_of_ne hle fun h => heq (BitVec.eq_of_toNat_eq h)
    obtain ⟨hseq, hstep⟩ := hcount heq
    have htop := last.isLt
    exact .inr ⟨hlt, hseq, hstep (by omega)⟩

theorem nextAfterWarmup_of_toNat_zero {n : Count} (h : n.toNat = 0) : nextAfterWarmup n = .done := by
  rw [show n = 0#31 from BitVec.eq_of_toNat_eq h, nextAfterWarmup_of_zero]

theorem nextAfterLoad_of_toNat_zero {w : Count} (n : Count) (h : w.toNat = 0) : nextAfterLoad w n = nextAfterWarmup n := by
  rw [show w = 0#31 from BitVec.eq_of_toNat_eq h, nextAfterLoad_of_zero]

theorem exec_loadKc_countsTo {s t : State} (h : exec .loadKc s = .next t) : CountsTo 16#31 .loadFn s t := by
  rw [exec_loadKc] at h
  cases h
  exact countsTo_countTo (by simp) (by simp) _ _

theorem exec_loadFn_countsTo {s t : State} (h : exec .loadFn s = .next t) :
    CountsTo 8#31 (nextAfterLoad s.wcnt s.ncnt) s t := by
  rw [exec_loadFn] at h
  cases h
  exact countsTo_countTo (by simp) (by simp) _ _

theorem exec_warmup_countsTo {s t : State} (h : exec .warmup s = .next t) :
    CountsTo s.wcnt (nextAfterWarmup s.ncnt) s t := by
  rw [exec_warmup] at h
  cases h
  exact countsTo_countTo (by simp) (by simp) _ _

theorem exec_keystream_countsTo {s t : State} (h : exec .keystream s = .next t) : CountsTo s.ncnt .done s t := by
  rw [exec_keystream] at h
  cases h
  exact countsTo_countTo (by simp) (by simp) _ _

/-- The states from LOAD_KC to DONE, in which INIT has executed and the trace is not empty. -/
def AfterInit (q : Seq) : Prop := q = .loadKc ∨ q = .loadFn ∨ q = .warmup ∨ q = .keystream ∨ q = .done

theorem nextAfterWarmup_afterInit (n : Count) : AfterInit (nextAfterWarmup n) := by
  rcases nextAfterWarmup_cases n with h | h <;> simp [h, AfterInit]

theorem nextAfterLoad_afterInit (w n : Count) : AfterInit (nextAfterLoad w n) := by
  rcases nextAfterLoad_cases w n with h | h | h <;> simp [h, AfterInit]

theorem afterInit_of_countsTo {last : Count} {q : Seq} {s t : State} (h : CountsTo last q s t) (hq : AfterInit q)
    (hs : AfterInit s.seq) : AfterInit t.seq := by
  by_cases heq : s.step = last
  · rwa [(h.1 heq).1]
  · rwa [(h.2 heq).1]

/-- A micro-operation leads to LOAD_KC or a later state, and no run falls back to IDLE, INIT or ERROR. -/
theorem exec_afterInit {j : Instr} {s t : State} (hj : j.seq? = some s.seq) (hb : busy s = true)
    (h : exec j s = .next t) : AfterInit t.seq := by
  rcases executing_of_phase hj hb with rfl | rfl | rfl | rfl | rfl <;> injection hj with hq
  · cases h
    exact .inl rfl
  · exact afterInit_of_countsTo (exec_loadKc_countsTo h) (by simp [AfterInit]) (by simp [← hq, AfterInit])
  · exact afterInit_of_countsTo (exec_loadFn_countsTo h) (nextAfterLoad_afterInit _ _) (by simp [← hq, AfterInit])
  · exact afterInit_of_countsTo (exec_warmup_countsTo h) (nextAfterWarmup_afterInit _) (by simp [← hq, AfterInit])
  · exact afterInit_of_countsTo (exec_keystream_countsTo h) (by simp [AfterInit]) (by simp [← hq, AfterInit])

/-! ## The records still to come

`State.remaining` is the part of `acceptedRun`'s trace that a run at (SEQ, STEP) has before it. A micro-operation moves the first
of these records to TRACE, so that TRACE followed by them stays the trace of the whole run. -/

/-- The records of keystream steps `k` to `n` from the registers `c`. -/
def keystreamTail (n k : Nat) (c : Cipher) : List StepRecord := (keystreamSteps (n + 1 - k) k c).2

/-- The records of warm-up steps `k` to `w` from the registers `c`, and all after them. -/
def warmupTail (w n k : Nat) (c : Cipher) : List StepRecord :=
  let ws := warmupSteps (w + 1 - k) k c
  ws.2 ++ keystreamTail n 1 ws.1

/-- The records of load_FN steps `k` to 8 from the registers `c`, and all after them. -/
def loadFnTail (frame w n k : Nat) (c : Cipher) : List StepRecord :=
  let fns := loadSteps .loadFn .fn (fun s => frame.testBit (8 - s)) (8 + 1 - k) k c
  fns.2 ++ warmupTail w n 1 fns.1

/-- The records of load_Kc steps `k` to 16 from the registers `c`, and all after them. -/
def loadKcTail (key frame w n k : Nat) (c : Cipher) : List StepRecord :=
  let kcs := loadSteps .loadKc .kc (fun s => key.testBit (16 - s)) (16 + 1 - k) k c
  kcs.2 ++ loadFnTail frame w n 1 kcs.1

/-- The records of the run that are still to come at (SEQ, STEP). -/
def State.remaining (s : State) : List StepRecord :=
  match s.seq with
  | .init => initRecord :: loadKcTail s.kc.toNat s.fn.toNat s.wcnt.toNat s.ncnt.toNat 1 Cipher.zero
  | .loadKc => loadKcTail s.kc.toNat s.fn.toNat s.wcnt.toNat s.ncnt.toNat s.step.toNat s.cipher
  | .loadFn => loadFnTail s.fn.toNat s.wcnt.toNat s.ncnt.toNat s.step.toNat s.cipher
  | .warmup => warmupTail s.wcnt.toNat s.ncnt.toNat s.step.toNat s.cipher
  | .keystream => keystreamTail s.ncnt.toNat s.step.toNat s.cipher
  | .idle | .done | .error => []

theorem acceptedRun_eq_loadKcTail (key frame w n : Nat) :
    (acceptedRun key frame w n).2 = initRecord :: loadKcTail key frame w n 1 Cipher.zero := by
  simp only [acceptedRun, loadKcTail, loadFnTail, warmupTail, keystreamTail, List.append_assoc, Nat.add_sub_cancel]

/-! ### Their number -/

theorem keystreamTail_length (n k : Nat) (c : Cipher) : (keystreamTail n k c).length = n + 1 - k :=
  (keystreamSteps_length _ k c).2

theorem warmupTail_length (w n k : Nat) (c : Cipher) : (warmupTail w n k c).length = (w + 1 - k) + n := by
  simp [warmupTail, warmupSteps_length, keystreamTail_length]

theorem loadFnTail_length (frame w n k : Nat) (c : Cipher) :
    (loadFnTail frame w n k c).length = (9 - k) + w + n := by
  simp [loadFnTail, loadSteps_length, warmupTail_length, Nat.add_assoc]

theorem loadKcTail_length (key frame w n k : Nat) (c : Cipher) :
    (loadKcTail key frame w n k c).length = (17 - k) + 8 + w + n := by
  simp [loadKcTail, loadSteps_length, loadFnTail_length, Nat.add_assoc]

/-- At a legal position of a run, the records it has and those it has before it are all of R141. -/
theorem recordsDue_add_remaining_length {s : State} (hpos : s.positionOk) (hrun : s.seq = .init ∨ AfterInit s.seq) :
    s.recordsDue + s.remaining.length = 1 + 16 + 8 + s.wcnt.toNat + s.ncnt.toNat := by
  rcases hrun with hq | hq | hq | hq | hq | hq <;>
    simp only [State.positionOk, hq] at hpos <;>
    simp [State.recordsDue, State.remaining, hq, loadKcTail_length, loadFnTail_length, warmupTail_length,
      keystreamTail_length] <;>
    omega

/-! ### One step of a phase, and its end -/

theorem keystreamTail_of_le {n k : Nat} (h : k ≤ n) (c : Cipher) :
    keystreamTail n k c =
      irrRecord .keystream k c (some (keystreamBit c)) :: keystreamTail n (k + 1) (advIrr c).next := by
  rw [keystreamTail, keystreamTail, Nat.add_sub_add_right, Nat.sub_add_comm h]
  rfl

theorem keystreamTail_past (n : Nat) (c : Cipher) : keystreamTail n (n + 1) c = [] := by
  rw [keystreamTail, Nat.sub_self]
  rfl

theorem warmupTail_of_le {w k : Nat} (n : Nat) (h : k ≤ w) (c : Cipher) :
    warmupTail w n k c = irrRecord .warmup k c none :: warmupTail w n (k + 1) (advIrr c).next := by
  rw [warmupTail, warmupTail, Nat.add_sub_add_right, Nat.sub_add_comm h]
  rfl

theorem warmupTail_past (w n : Nat) (c : Cipher) : warmupTail w n (w + 1) c = keystreamTail n 1 c := by
  rw [warmupTail, Nat.sub_self]
  rfl

theorem loadFnTail_of_le {k : Nat} (frame w n : Nat) (h : k ≤ 8) (c : Cipher) :
    loadFnTail frame w n k c =
      loadRecord .loadFn .fn k (frame.testBit (8 - k)) c ::
        loadFnTail frame w n (k + 1) (advLoad c (frame.testBit (8 - k))).next := by
  rw [loadFnTail, loadFnTail, Nat.add_sub_add_right, Nat.sub_add_comm h]
  rfl

theorem loadFnTail_past (frame w n : Nat) (c : Cipher) : loadFnTail frame w n 9 c = warmupTail w n 1 c := rfl

theorem loadKcTail_of_le {k : Nat} (key frame w n : Nat) (h : k ≤ 16) (c : Cipher) :
    loadKcTail key frame w n k c =
      loadRecord .loadKc .kc k (key.testBit (16 - k)) c ::
        loadKcTail key frame w n (k + 1) (advLoad c (key.testBit (16 - k))).next := by
  rw [loadKcTail, loadKcTail, Nat.add_sub_add_right, Nat.sub_add_comm h]
  rfl

theorem loadKcTail_past (key frame w n : Nat) (c : Cipher) :
    loadKcTail key frame w n 17 c = loadFnTail frame w n 1 c := rfl

/-! ## One micro-operation of a run -/

/-- What the record of a cycle is, by the state of the sequencer. -/
theorem currentRecord_cases {s : State} {r : StepRecord} (h : currentRecord s = some r) :
    (s.seq = .init ∧ r = initRecord) ∨
    (s.seq = .loadKc ∧ r = loadRecord .loadKc .kc s.step.toNat (keyBit s.kc s.step) s.cipher) ∨
    (s.seq = .loadFn ∧ r = loadRecord .loadFn .fn s.step.toNat (frameBit s.fn s.step) s.cipher) ∨
    (s.seq = .warmup ∧ r = irrRecord .warmup s.step.toNat s.cipher none) ∨
    (s.seq = .keystream ∧ r = irrRecord .keystream s.step.toNat s.cipher (some (keystreamBit s.cipher))) := by
  unfold currentRecord at h
  cases hq : s.seq <;> simp only [hq] at h <;> cases h <;> simp

/-- The record's output field is the bit of the cycle (R44, R104). -/
theorem currentRecord_out {s : State} {r : StepRecord} (h : currentRecord s = some r) : r.out = currentBit s := by
  rcases currentRecord_cases h with ⟨hq, rfl⟩ | ⟨hq, rfl⟩ | ⟨hq, rfl⟩ | ⟨hq, rfl⟩ | ⟨hq, rfl⟩ <;>
    simp [currentBit, hq, initRecord]

/-- After INIT a record starts at the registers. -/
theorem currentRecord_pre {s : State} {r : StepRecord} (hq : AfterInit s.seq) (h : currentRecord s = some r) :
    r.pre = s.cipher := by
  rcases currentRecord_cases h with ⟨hi, _⟩ | ⟨_, rfl⟩ | ⟨_, rfl⟩ | ⟨_, rfl⟩ | ⟨_, rfl⟩
  · simp [AfterInit, hi] at hq
  all_goals rfl

/-- At a legal position STEP is at least 1, so the record is well formed (R150, R152). -/
theorem currentRecord_wf {s : State} {r : StepRecord} (hpos : s.positionOk) (h : currentRecord s = some r) :
    r.wf = true := by
  rcases currentRecord_cases h with ⟨hq, rfl⟩ | ⟨hq, rfl⟩ | ⟨hq, rfl⟩ | ⟨hq, rfl⟩ | ⟨hq, rfl⟩ <;>
    simp only [State.positionOk, hq] at hpos
  · exact initRecord_wf
  · exact loadRecord_wf_kc _ hpos.1 _ _
  · exact loadRecord_wf_fn _ hpos.1 _ _
  · exact irrRecord_wf_warmup _ hpos.1 _
  · exact irrRecord_wf_keystream _ hpos.1 _ _

/-- The record ends at the registers that the micro-operation leaves. -/
theorem exec_cipher_eq_post {j : Instr} {s t : State} {r : StepRecord} (hj : j.seq? = some s.seq)
    (hr : currentRecord s = some r) (h : exec j s = .next t) : t.cipher = r.post := by
  have hp := (proceed_of_seq hj).trans h
  rcases currentRecord_cases hr with ⟨hq, rfl⟩ | ⟨hq, rfl⟩ | ⟨hq, rfl⟩ | ⟨hq, rfl⟩ | ⟨hq, rfl⟩
  · rw [proceed_of_seq (i := .init) (by rw [hq]; rfl), exec_init] at hp
    cases hp
    rfl
  · rw [proceed_of_seq (i := .loadKc) (by rw [hq]; rfl), exec_loadKc] at hp
    cases hp
    simp
  · rw [proceed_of_seq (i := .loadFn) (by rw [hq]; rfl), exec_loadFn] at hp
    cases hp
    simp
  · rw [proceed_of_seq (i := .warmup) (by rw [hq]; rfl), exec_warmup] at hp
    cases hp
    simp
  · rw [proceed_of_seq (i := .keystream) (by rw [hq]; rfl), exec_keystream] at hp
    cases hp
    simp

/-- `t` is a run one micro-operation further than `s`: at a legal position, with the record of the cycle no longer to come. -/
def Advances (s t : State) : Prop :=
  t.positionOk ∧ ∃ r, currentRecord s = some r ∧ s.remaining = r :: t.remaining

/-- At LOAD_FN 1 the whole of LOAD_FN and of what comes after it is to come. -/
theorem enter_loadFn {t : State} (hseq : t.seq = .loadFn) (hstep : t.step = 1#31) :
    t.positionOk ∧ t.remaining = loadFnTail t.fn.toNat t.wcnt.toNat t.ncnt.toNat 1 t.cipher := by
  simp [State.positionOk, State.remaining, hseq, hstep]

/-- After the warm-up: KEYSTREAM, or DONE when no bit is asked for (R133). -/
theorem enter_nextAfterWarmup {t : State} (hseq : t.seq = nextAfterWarmup t.ncnt) (hstep : t.step = 1#31) :
    t.positionOk ∧ t.remaining = keystreamTail t.ncnt.toNat 1 t.cipher := by
  rcases Nat.eq_zero_or_pos t.ncnt.toNat with hn | hpos
  · rw [nextAfterWarmup_of_toNat_zero hn] at hseq
    simp [State.positionOk, State.remaining, hseq, hstep, hn, keystreamTail_past 0]
  · rw [nextAfterWarmup_of_pos hpos] at hseq
    simp [State.positionOk, State.remaining, hseq, hstep, Nat.one_le_iff_ne_zero, hpos.ne']

/-- After the load phases: WARMUP, or what comes after it when it has no cycle (R133). -/
theorem enter_nextAfterLoad {t : State} (hseq : t.seq = nextAfterLoad t.wcnt t.ncnt) (hstep : t.step = 1#31) :
    t.positionOk ∧ t.remaining = warmupTail t.wcnt.toNat t.ncnt.toNat 1 t.cipher := by
  rcases Nat.eq_zero_or_pos t.wcnt.toNat with hw | hpos
  · rw [nextAfterLoad_of_toNat_zero _ hw] at hseq
    rw [hw, warmupTail_past 0]
    exact enter_nextAfterWarmup hseq hstep
  · rw [nextAfterLoad_of_pos t.ncnt hpos] at hseq
    simp [State.positionOk, State.remaining, hseq, hstep, Nat.one_le_iff_ne_zero, hpos.ne']

/-- The two ways a micro-operation of a phase can go on, with `tail k` the records to come at step `k` of the phase: to the next
phase after step `last`, to the next step before it. -/
theorem advances_of_countsTo {last : Count} {q : Seq} {s t : State} {r : StepRecord} {tail : Nat → Cipher → List StepRecord}
    (hcounts : CountsTo last q s t) (hle : s.step.toNat ≤ last.toNat) (hr : currentRecord s = some r)
    (hs : s.remaining = r :: tail (s.step.toNat + 1) t.cipher)
    (hover : t.seq = q → t.step = 1#31 → t.positionOk ∧ t.remaining = tail (last.toNat + 1) t.cipher)
    (hstay : t.seq = s.seq → 1 ≤ t.step.toNat → t.step.toNat ≤ last.toNat →
      t.positionOk ∧ t.remaining = tail t.step.toNat t.cipher) : Advances s t := by
  rcases countsTo_cases hcounts hle with ⟨hlast, hq, hstep⟩ | ⟨hlt, hq, hstep⟩
  · obtain ⟨hpos, hrem⟩ := hover hq hstep
    exact ⟨hpos, r, hr, by rw [hs, hrem, hlast]⟩
  · obtain ⟨hpos, hrem⟩ := hstay hq (by omega) (by omega)
    exact ⟨hpos, r, hr, by rw [hs, hrem, hstep]⟩

theorem exec_init_advances {s t : State} (hq : s.seq = .init) (h : exec .init s = .next t) : Advances s t := by
  injection (exec_init s).symm.trans h with ht
  exact ⟨by simp [State.positionOk, ← ht], initRecord, by simp [currentRecord, hq], by simp [State.remaining, hq, ← ht]⟩

theorem exec_loadKc_advances {s t : State} (hq : s.seq = .loadKc) (hpos : s.positionOk)
    (h : exec .loadKc s = .next t) : Advances s t := by
  obtain ⟨hlo, hhi⟩ : 1 ≤ s.step.toNat ∧ s.step.toNat ≤ 16 := by simpa only [State.positionOk, hq] using hpos
  obtain ⟨-, hkc, hfn, hw, hn, -⟩ := exec_microOp_latchesKept rfl h
  have hr : currentRecord s =
      some (loadRecord .loadKc .kc s.step.toNat (s.kc.toNat.testBit (16 - s.step.toNat)) s.cipher) := by
    simp [currentRecord, hq, keyBit_of_range hlo hhi, BitVec.getLsbD]
  have hc := exec_cipher_eq_post (by rw [hq]; rfl) hr h
  refine advances_of_countsTo (tail := loadKcTail s.kc.toNat s.fn.toNat s.wcnt.toNat s.ncnt.toNat)
    (exec_loadKc_countsTo h) hhi hr ?now (fun hseq hstep => ?handOver) fun hseq hlo' hhi' => ?stay
  case now => rw [hc, loadRecord_post]; simp only [State.remaining, hq, loadKcTail_of_le _ _ _ _ hhi]
  case handOver => rw [← hfn, ← hw, ← hn]; exact enter_loadFn hseq hstep
  case stay => simpa [State.positionOk, State.remaining, hseq.trans hq, hkc, hfn, hw, hn, hlo'] using hhi'

theorem exec_loadFn_advances {s t : State} (hq : s.seq = .loadFn) (hpos : s.positionOk)
    (h : exec .loadFn s = .next t) : Advances s t := by
  obtain ⟨hlo, hhi⟩ : 1 ≤ s.step.toNat ∧ s.step.toNat ≤ 8 := by simpa only [State.positionOk, hq] using hpos
  obtain ⟨-, -, hfn, hw, hn, -⟩ := exec_microOp_latchesKept rfl h
  have hr : currentRecord s =
      some (loadRecord .loadFn .fn s.step.toNat (s.fn.toNat.testBit (8 - s.step.toNat)) s.cipher) := by
    simp [currentRecord, hq, frameBit_of_range hlo hhi, BitVec.getLsbD]
  have hc := exec_cipher_eq_post (by rw [hq]; rfl) hr h
  refine advances_of_countsTo (tail := loadFnTail s.fn.toNat s.wcnt.toNat s.ncnt.toNat)
    (exec_loadFn_countsTo h) hhi hr ?now (fun hseq hstep => ?handOver) fun hseq hlo' hhi' => ?stay
  case now => rw [hc, loadRecord_post]; simp only [State.remaining, hq, loadFnTail_of_le _ _ _ hhi]
  case handOver => rw [← hw, ← hn] at hseq ⊢; exact enter_nextAfterLoad hseq hstep
  case stay => simpa [State.positionOk, State.remaining, hseq.trans hq, hfn, hw, hn, hlo'] using hhi'

theorem exec_warmup_advances {s t : State} (hq : s.seq = .warmup) (hpos : s.positionOk)
    (h : exec .warmup s = .next t) : Advances s t := by
  obtain ⟨-, hhi⟩ : 1 ≤ s.step.toNat ∧ s.step.toNat ≤ s.wcnt.toNat := by simpa only [State.positionOk, hq] using hpos
  obtain ⟨-, -, -, hw, hn, -⟩ := exec_microOp_latchesKept rfl h
  have hr : currentRecord s = some (irrRecord .warmup s.step.toNat s.cipher none) := by simp [currentRecord, hq]
  have hc := exec_cipher_eq_post (by rw [hq]; rfl) hr h
  refine advances_of_countsTo (tail := warmupTail s.wcnt.toNat s.ncnt.toNat)
    (exec_warmup_countsTo h) hhi hr ?now (fun hseq hstep => ?handOver) fun hseq hlo' hhi' => ?stay
  case now => rw [hc, irrRecord_post]; simp only [State.remaining, hq, warmupTail_of_le _ hhi]
  case handOver => rw [warmupTail_past, ← hn]; rw [← hn] at hseq; exact enter_nextAfterWarmup hseq hstep
  case stay => simp [State.positionOk, State.remaining, hseq.trans hq, hw, hn, hlo', hhi']

theorem exec_keystream_advances {s t : State} (hq : s.seq = .keystream) (hpos : s.positionOk)
    (h : exec .keystream s = .next t) : Advances s t := by
  obtain ⟨-, hhi⟩ : 1 ≤ s.step.toNat ∧ s.step.toNat ≤ s.ncnt.toNat := by simpa only [State.positionOk, hq] using hpos
  obtain ⟨-, -, -, -, hn, -⟩ := exec_microOp_latchesKept rfl h
  have hr : currentRecord s = some (irrRecord .keystream s.step.toNat s.cipher (some (keystreamBit s.cipher))) := by
    simp [currentRecord, hq]
  have hc := exec_cipher_eq_post (by rw [hq]; rfl) hr h
  refine advances_of_countsTo (tail := keystreamTail s.ncnt.toNat)
    (exec_keystream_countsTo h) hhi hr ?now (fun hseq hstep => ?handOver) fun hseq hlo' hhi' => ?stay
  case now => rw [hc, irrRecord_post]; simp only [State.remaining, hq, keystreamTail_of_le hhi]
  case handOver => simp [State.positionOk, State.remaining, hseq, hstep, keystreamTail_past]
  case stay => simp [State.positionOk, State.remaining, hseq.trans hq, hn, hlo', hhi']

/-- Every micro-operation at a legal position takes the run one record further (R130 to R135). -/
theorem exec_advances {j : Instr} {s t : State} (hj : j.seq? = some s.seq) (hb : busy s = true) (hpos : s.positionOk)
    (h : exec j s = .next t) : Advances s t := by
  rcases executing_of_phase hj hb with rfl | rfl | rfl | rfl | rfl <;> have hq := (Option.some.inj hj).symm
  · exact exec_init_advances hq h
  · exact exec_loadKc_advances hq hpos h
  · exact exec_loadFn_advances hq hpos h
  · exact exec_warmup_advances hq hpos h
  · exact exec_keystream_advances hq hpos h

/-! ## The invariant (R131 to R136, R54, R141, R152, R157) -/

/-- The three states in which nothing executes (R15, R17). -/
theorem not_busy_iff (s : State) : busy s = false ↔ s.seq = .idle ∨ s.seq = .done ∨ s.seq = .error := by
  unfold busy
  cases s.seq <;> simp [Seq.phase?]

/-- What the invariant says of the trace once INIT has executed. -/
theorem traceOk_iff_of_afterInit {s : State} (hq : AfterInit s.seq) :
    s.traceOk ↔ s.trace.length = s.recordsDue ∧ s.traceEndsAtCipher := by
  rcases hq with hq | hq | hq | hq | hq <;> simp only [State.traceOk, hq]

/-- The trace that a cycle's record is appended to: empty before INIT's record, and ending where a later one starts. -/
theorem trace_of_traceOk {s : State} {r : StepRecord} (htrace : s.traceOk) (hr : currentRecord s = some r) :
    s.trace.length = s.recordsDue ∧
      ((s.trace = [] ∧ r = initRecord) ∨ (s.traceEndsAtCipher ∧ r.pre = s.cipher)) := by
  rcases currentRecord_cases hr with ⟨hq, rfl⟩ | hq
  · simp only [State.traceOk, hq] at htrace
    exact ⟨by simp [State.recordsDue, hq, htrace], .inl ⟨htrace, rfl⟩⟩
  · have hafter : AfterInit s.seq := by unfold AfterInit; tauto
    obtain ⟨hlength, hends⟩ := (traceOk_iff_of_afterInit hafter).mp htrace
    exact ⟨hlength, .inr ⟨hends, currentRecord_pre hafter hr⟩⟩

/-- Continued by INIT's record, or by one that starts at the registers, the trace ends where that record ends. -/
theorem traceEndsAtCipher_of_append {s t : State} {r : StepRecord} (htrace : t.trace = s.trace ++ [r])
    (hpost : t.cipher = r.post)
    (hbefore : (s.trace = [] ∧ r = initRecord) ∨ (s.traceEndsAtCipher ∧ r.pre = s.cipher)) : t.traceEndsAtCipher := by
  refine ⟨?_, by simp [htrace, hpost]⟩
  rcases hbefore with ⟨hnil, rfl⟩ | ⟨⟨hhead, -⟩, -⟩
  · simp [htrace, hnil]
  · simp [htrace, hhead]

/-- Continued by such a record, well formed, the trace stays a chain of well-formed records. -/
theorem recordsOk_of_append {s t : State} {r : StepRecord} (htrace : t.trace = s.trace ++ [r]) (hwf : r.wf = true)
    (hrecords : s.recordsOk)
    (hbefore : (s.trace = [] ∧ r = initRecord) ∨ (s.traceEndsAtCipher ∧ r.pre = s.cipher)) : t.recordsOk := by
  obtain ⟨hallWf, hchained⟩ := hrecords
  rw [State.recordsOk, htrace]
  refine ⟨fun x hx => ?_, chained_snoc hchained fun a ha => ?_⟩
  · rcases List.mem_append.mp hx with hx | hx
    · exact hallWf x hx
    · rwa [List.mem_singleton.mp hx]
  · rcases hbefore with ⟨hnil, -⟩ | ⟨⟨-, hlast⟩, hpre⟩
    · simp [hnil] at ha
    · rw [ha] at hlast
      exact hpre.trans (Option.some.inj hlast).symm

/-- A micro-operation makes one more record due. -/
theorem recordsDue_of_remaining {s t : State} {r : StepRecord} (hpos : s.positionOk) (hb : busy s = true)
    (hpos' : t.positionOk) (hafter : AfterInit t.seq) (hw : t.wcnt = s.wcnt) (hn : t.ncnt = s.ncnt)
    (hremaining : s.remaining = r :: t.remaining) : t.recordsDue = s.recordsDue + 1 := by
  have hbusy := (busy_iff s).mp hb
  have hall := recordsDue_add_remaining_length hpos (by unfold AfterInit; tauto)
  have hall' := recordsDue_add_remaining_length hpos' (.inr hafter)
  rw [hw, hn, ← hall, hremaining, List.length_cons] at hall'
  omega

/-- A micro-operation keeps the invariant: it takes the run one record further (`exec_advances`), and that record starts at the
registers before it and ends at those after it. -/
theorem exec_keeps_inv_of_busy {j : Instr} {s t : State} (hj : j.seq? = some s.seq) (hb : busy s = true) (hinv : s.Inv)
    (h : exec j s = .next t) : t.Inv := by
  obtain ⟨hposition, r, hr, hremaining⟩ := exec_advances hj hb hinv.position h
  obtain ⟨hks, htrace⟩ := exec_appends hj h
  rw [← currentRecord_out hr] at hks
  rw [hr, Option.toList_some] at htrace
  obtain ⟨herr, -, -, hw, hn, -⟩ := exec_microOp_latchesKept (by rw [hj]; rfl) h
  have hafter := exec_afterInit hj hb h
  obtain ⟨hlength, hbefore⟩ := trace_of_traceOk hinv.trace hr
  refine ⟨hposition, ?err, ?ks, (traceOk_iff_of_afterInit hafter).mpr ⟨?length, ?ends⟩,
    recordsOk_of_append htrace (currentRecord_wf hinv.position hr) hinv.records hbefore⟩
  case err =>
    have hrun : s.seq ≠ .error := fun hq => by simp [busy, hq, Seq.phase?] at hb
    have hrun' : t.seq ≠ .error := fun hq => by simp [AfterInit, hq] at hafter
    exact iff_of_true (herr.trans (hinv.err.mpr hrun)) hrun'
  case ks =>
    have hks' : s.ks = s.trace.filterMap StepRecord.out := hinv.ks
    cases hout : r.out <;> simp [State.ksOk, hks, htrace, hks', hout]
  case length =>
    rw [recordsDue_of_remaining hinv.position hb hposition hafter hw hn hremaining, htrace, ← hlength]
    simp
  case ends => exact traceEndsAtCipher_of_append htrace (exec_cipher_eq_post hj hr h) hbefore

/-- After an accepted START the engine meets the invariant whatever the state before was. -/
theorem acceptStart_inv (s : State) : s.acceptStart.Inv where
  position := rfl
  err := by simp [State.errOk]
  ks := rfl
  trace := rfl
  records := ⟨by simp, trivial⟩

/-- A rejected START keeps the trace of the last run, if there was one (R173). -/
theorem raiseConfig_inv {s : State} (hb : busy s = false) (hinv : s.Inv) (e : ConfigError) : (s.raiseConfig e).Inv := by
  obtain ⟨hposition, -, hks, htrace, hrecords⟩ := hinv
  refine ⟨?position, ?err, hks, ?trace, hrecords⟩
  case position =>
    rcases (not_busy_iff s).mp hb with hq | hq | hq <;>
      (simp only [State.positionOk, hq] at hposition; exact hposition)
  case err => cases e <;> simp [State.errOk, ConfigError.errCode]
  case trace =>
    rcases (not_busy_iff s).mp hb with hq | hq | hq <;>
      simp only [State.traceOk, State.recordsDue, hq] at htrace
    · exact .inl htrace
    · exact .inr htrace
    · exact htrace

theorem honourStart_inv {s : State} (hb : busy s = false) (hinv : s.Inv) : s.honourStart.Inv := by
  rcases honourStart_cases s with ⟨_, h⟩ | ⟨e, _, h⟩ <;> rw [h]
  · exact acceptStart_inv s
  · exact raiseConfig_inv hb hinv e

/-- RESET leads to the state elements of the reset state, and the inputs are no part of the invariant. -/
theorem clear_inv (s : State) : s.clear.Inv :=
  let h := Proofs.invariantHoldsAtReset
  ⟨h.position, h.err, h.ks, h.trace, h.records⟩

/-- An edge is one of three: RESET, an honoured START, or the instruction whose code SEQ holds (R130, R137, R200). -/
theorem step_cases (s : State) :
    step s = .next s.clear.advanceInputs ∨
    (busy s = false ∧ step s = .next s.honourStart.advanceInputs) ∨
    (∃ j t, j.seq? = some s.seq ∧ exec j s = .next t ∧ step s = .next t.advanceInputs) := by
  by_cases hr : s.ports.rst = true
  · exact .inl (step_of_rst hr)
  have hr : s.ports.rst = false := Bool.eq_false_iff.mpr hr
  by_cases hs : s.ports.start = false ∨ busy s = true
  · obtain ⟨j, t, hj, hp, he⟩ := proceed_cases s
    exact .inr (.inr ⟨j, t, hj, he, by rw [step_of_proceed hr hs, hp, afterEdge]⟩)
  · obtain ⟨hstart, hb⟩ : s.ports.start = true ∧ busy s = false := by simpa using hs
    exact .inr (.inl ⟨hb, step_of_start ⟨hr, hstart, hb⟩⟩)

/-- The instruction whose code SEQ holds keeps the invariant: a waiting state keeps everything. -/
theorem exec_keeps_inv {j : Instr} {s t : State} (hj : j.seq? = some s.seq) (hinv : s.Inv) (h : exec j s = .next t) :
    t.Inv := by
  by_cases hb : busy s = true
  · exact exec_keeps_inv_of_busy hj hb hinv h
  · rwa [exec_eq_self_of_no_phase hj (Bool.eq_false_iff.mpr hb) h]

end Sys2Proof.Machine

namespace Sys2Proof.Proofs

open Sys2Proof.Machine Sys2Proof.Claims

/-- Settles O44: RESET and an accepted START begin afresh, a rejected START keeps the last trace, and a micro-operation moves one
record from those still to come to the trace. -/
theorem everyStepKeepsTheInvariant : Obligations.EveryStepKeepsTheInvariant := by
  intro s t hinv h
  rcases step_cases s with hstep | ⟨hb, hstep⟩ | ⟨j, u, hj, hexec, hstep⟩ <;> rw [hstep] at h <;> cases h <;>
    apply Inv_advanceInputs
  · exact clear_inv s
  · exact honourStart_inv hb hinv
  · exact exec_keeps_inv hj hinv hexec

end Sys2Proof.Proofs

namespace Sys2Proof.Machine

open Sys2Proof.Claims

/-! ## The configuration of a START, and what `Run` makes of it (R122, R138, R172) -/

theorem run_eq_error_iff (c : RunConfig) (e : ConfigError) : run c = .error e ↔ validate c = .error e := by
  unfold run
  cases validate c <;> simp

theorem validate_of_run_ok {c : RunConfig} {ks : List Bool} {trace : List StepRecord} (h : run c = .ok ks trace) :
    validate c = .ok := by
  cases hv : validate c with
  | ok => rfl
  | error e => rw [(run_eq_error_iff c e).mpr hv] at h; cases h

theorem validate_ok_iff (c : RunConfig) :
    validate c = .ok ↔ c.key < 2 ^ 16 ∧ c.frame < 2 ^ 8 ∧ 0 ≤ c.warmupCycles ∧ 0 ≤ c.keystreamBits := by
  have hchecks : validate c = .ok ↔ ¬ valueTooWide c = true ∧ ¬ invalidCycleCount c = true := by
    rcases validate_cases c with ⟨hw, hv⟩ | ⟨hw, hi, hv⟩ | ⟨hw, hi, hv⟩ <;> simp [*]
  rw [hchecks, valueTooWide_iff, invalidCycleCount_iff]
  omega

/-- Bit 31 of a count's word is its sign (R22, R23). -/
theorem signBit_eq_false_iff (w : CfgWord) : w.getLsbD 31 = false ↔ 0 ≤ w.toInt := by
  rw [show w.getLsbD 31 = w.msb from (BitVec.msb_eq_getLsbD_last w).symm, BitVec.msb_eq_toInt]
  simp

/-- `Validate` accepts the configuration on the ports exactly when the statements call it legal (R20 to R23, R172). -/
theorem validate_config_ok_iff (p : Ports) : validate p.config = .ok ↔ LegalPorts p := by
  rw [validate_ok_iff, LegalPorts, signBit_eq_false_iff, signBit_eq_false_iff]
  rfl

theorem honourStart_of_validate_ok {s : State} (h : validate s.ports.config = .ok) : s.honourStart = s.acceptStart := by
  simp only [State.honourStart, h]

theorem honourStart_of_validate_error {s : State} {e : ConfigError} (h : validate s.ports.config = .error e) :
    s.honourStart = s.raiseConfig e := by
  simp only [State.honourStart, h]

theorem keyField_eq_ofNat (w : CfgWord) : keyField w = BitVec.ofNat 16 w.toNat := rfl

theorem frameField_eq_ofNat (w : CfgWord) : frameField w = BitVec.ofNat 8 w.toNat := rfl

theorem countField_eq_ofNat (w : CfgWord) : countField w = BitVec.ofNat 31 w.toNat := rfl

/-- The field of a count that is not negative holds the whole of it. -/
theorem countField_toNat {w : CfgWord} (h : 0 ≤ w.toInt) : (countField w).toNat = w.toInt.toNat := by
  have hsign := BitVec.toInt_eq_toNat_cond w
  rw [countField_eq_ofNat, BitVec.toNat_ofNat]
  have hw := w.isLt
  split at hsign <;> omega

/-- After an accepted START the whole run of `Run` is still to come. -/
theorem acceptStart_remaining {s : State} (h : validate s.ports.config = .ok) :
    s.acceptStart.remaining =
      (acceptedRun s.ports.config.key s.ports.config.frame s.ports.config.warmupCycles.toNat
        s.ports.config.keystreamBits.toNat).2 := by
  obtain ⟨hkey, hframe, hw, hn⟩ := (validate_ok_iff _).mp h
  have hkc : s.acceptStart.kc.toNat = s.ports.config.key := by
    rw [State.acceptStart_kc, keyField_eq_ofNat, BitVec.toNat_ofNat]
    exact Nat.mod_eq_of_lt hkey
  have hfn : s.acceptStart.fn.toNat = s.ports.config.frame := by
    rw [State.acceptStart_fn, frameField_eq_ofNat, BitVec.toNat_ofNat]
    exact Nat.mod_eq_of_lt hframe
  have hwcnt : s.acceptStart.wcnt.toNat = s.ports.config.warmupCycles.toNat := countField_toNat hw
  have hncnt : s.acceptStart.ncnt.toNat = s.ports.config.keystreamBits.toNat := countField_toNat hn
  rw [acceptedRun_eq_loadKcTail, ← hkc, ← hfn, ← hwcnt, ← hncnt]
  simp only [State.remaining, State.acceptStart_seq]

/-- The inputs are no part of the position or the registers. -/
@[simp] theorem remaining_advanceInputs (s : State) : s.advanceInputs.remaining = s.remaining := by
  simp only [State.remaining, State.advanceInputs_seq, State.advanceInputs_kc, State.advanceInputs_fn,
    State.advanceInputs_wcnt, State.advanceInputs_ncnt, State.advanceInputs_step, State.advanceInputs_cipher]

/-! ## A whole run -/

/-- A run of `k + 1` steps is a step and a run of `k`. -/
theorem core_run_succ {M : Host.Core} {s t : M.State} (h : M.step s = .next t) (k : Nat) :
    M.run (k + 1) s = M.run k t := by
  rw [Host.Core.run, h]

/-- `s` is a state of a run without RESET whose whole trace is `full`: the records it has, and those still to come. -/
structure InRun (full : List StepRecord) (s : State) : Prop where
  inv      : s.Inv
  noReset  : s.noReset
  position : s.seq = .init ∨ AfterInit s.seq
  records  : s.trace ++ s.remaining = full

/-- An accepted START begins a run with the trace of `Run`. -/
theorem inRun_of_start {s : State} {ks : List Bool} {trace : List StepRecord} (hs : s.startsNow) (hno : s.noReset)
    (h : run s.ports.config = .ok ks trace) :
    ∃ t, step s = .next t ∧ InRun trace t ∧ t.trace = [] := by
  have hv := validate_of_run_ok h
  refine ⟨s.acceptStart.advanceInputs, by rw [step_of_start hs, honourStart_of_validate_ok hv], ⟨?_, ?_, ?_, ?_⟩, by simp⟩
  · exact Inv_advanceInputs (acceptStart_inv s)
  · exact noReset_advanceInputs (s := s.acceptStart) hno
  · exact .inl (by simp)
  · simp [acceptStart_remaining hv, run_ok_eq h]

/-- A run is over when no record is to come: the sequencer is in DONE. -/
theorem InRun.seq_done {full : List StepRecord} {s : State} (h : InRun full s) (hnil : s.remaining = []) :
    s.seq = .done := by
  by_contra hq
  have hb : busy s = true := by
    have hpos := h.position
    rw [busy_iff]
    unfold AfterInit at hpos
    tauto
  obtain ⟨j, t, hj, -, he⟩ := proceed_cases s
  obtain ⟨-, r, -, hrem⟩ := exec_advances hj hb h.inv.position he
  rw [hnil] at hrem
  cases hrem

/-- While records are to come, an edge of a run takes one of them. -/
theorem InRun.step_takes_record {full : List StepRecord} {s : State} (h : InRun full s) (hne : s.remaining ≠ []) :
    ∃ t, step s = .next t ∧ InRun full t ∧ t.trace.length = s.trace.length + 1 := by
  have hb : busy s = true := by
    by_contra hb
    rcases (not_busy_iff s).mp (Bool.eq_false_iff.mpr hb) with hq | hq | hq <;> simp [State.remaining, hq] at hne
  obtain ⟨j, t, hj, hp, he⟩ := proceed_cases s
  obtain ⟨-, r, hr, hrem⟩ := exec_advances hj hb h.inv.position he
  obtain ⟨-, htrace⟩ := exec_appends hj he
  obtain ⟨-, -, -, -, -, hports, hlater⟩ := exec_microOp_latchesKept (by rw [hj]; rfl) he
  rw [hr, Option.toList_some] at htrace
  have hstep : step s = .next t.advanceInputs := by rw [step_of_proceed h.noReset.1 (.inr hb), hp, afterEdge]
  refine ⟨t.advanceInputs, hstep, ⟨?_, ?_, ?_, ?_⟩, by simp [htrace]⟩
  · exact Inv_advanceInputs (exec_keeps_inv hj h.inv he)
  · exact noReset_advanceInputs (by simpa only [State.noReset, hports, hlater] using h.noReset)
  · exact .inr (by simpa using exec_afterInit hj hb he)
  · rw [← h.records, hrem]
    simp [htrace]

/-- `k` edges of a run take `k` records. -/
theorem InRun.core_run {full : List StepRecord} {s : State} (h : InRun full s) (k : Nat) (hk : k ≤ s.remaining.length) :
    ∃ t, Host.Core.run core k s = .next t ∧ InRun full t ∧ t.trace.length = s.trace.length + k := by
  induction k generalizing s with
  | zero => exact ⟨s, rfl, h, rfl⟩
  | succ k ih =>
    obtain ⟨u, hstep, hu, hlength⟩ := h.step_takes_record (List.ne_nil_of_length_pos (by omega))
    have hall := congrArg List.length (hu.records.trans h.records.symm)
    simp only [List.length_append] at hall
    obtain ⟨t, hrun, ht, hlength'⟩ := ih hu (by omega)
    exact ⟨t, (core_run_succ (M := core) hstep k).trans hrun, ht, by omega⟩

/-- After the START edge and `k` further edges of an accepted run, `k` records of its trace have been emitted. -/
theorem run_of_start {s : State} {ks : List Bool} {trace : List StepRecord} (hs : s.startsNow) (hno : s.noReset)
    (h : run s.ports.config = .ok ks trace) {k : Nat} (hk : k ≤ trace.length) :
    ∃ t, Host.Core.run core (1 + k) s = .next t ∧ InRun trace t ∧ t.trace.length = k := by
  obtain ⟨u, hstep, hu, hnil⟩ := inRun_of_start hs hno h
  have hrem : u.remaining = trace := by simpa [hnil] using hu.records
  obtain ⟨t, hrun, ht, hlength⟩ := hu.core_run k (by rwa [hrem])
  exact ⟨t, by rw [Nat.add_comm 1 k, core_run_succ (M := core) hstep, hrun], ht, by simpa [hnil] using hlength⟩

theorem acceptedRun_length (key frame w n : Nat) : (acceptedRun key frame w n).2.length = 1 + 16 + 8 + w + n := by
  rw [acceptedRun_eq_loadKcTail, List.length_cons, loadKcTail_length]
  omega

end Sys2Proof.Machine

namespace Sys2Proof.Proofs

open Sys2Proof.Machine Sys2Proof.Claims

/-- Settles O45: an accepted START begins a run (`InRun`) whose every edge takes one record of `Run`'s trace; after as many
edges as it has records none is to come, and the engine is in DONE. -/
theorem stateMachineAgreesWithRun : Obligations.StateMachineAgreesWithRun := by
  refine fun s hs hno => ⟨fun e he => ?rejected, fun ks trace hrun => ?accepted⟩
  case rejected =>
    have hstart := honourStart_of_validate_error ((run_eq_error_iff _ e).mp he)
    refine ⟨(s.raiseConfig e).advanceInputs, by rw [step_of_start hs, hstart], by simp, by simp, ?_, ?_⟩
    · simp [State.resultKs, errorFlag]
    · simp [State.resultTrace, errorFlag]
  case accepted =>
    have hwhole := run_ok_eq hrun
    have hlength : trace.length = 1 + 16 + 8 + s.ports.cfgWarmup.toInt.toNat + s.ports.cfgKs.toInt.toNat := by
      rw [← acceptedRun_length s.ports.config.key s.ports.config.frame]
      exact congrArg (List.length ∘ Prod.snd) hwhole.symm
    obtain ⟨t, hsteps, ht, hall⟩ := run_of_start hs hno hrun (le_of_eq hlength.symm)
    have hrecords := ht.records
    have hnil : t.remaining = [] := by
      have hcount := congrArg List.length hrecords
      rw [List.length_append] at hcount
      exact List.eq_nil_of_length_eq_zero (by omega)
    rw [hnil, List.append_nil] at hrecords
    refine ⟨t, hsteps, ht.seq_done hnil, ?_, hrecords⟩
    calc t.ks = t.trace.filterMap StepRecord.out := ht.inv.ks
      _ = (acceptedRun _ _ _ _).2.filterMap StepRecord.out := by rw [hrecords, hwhole]
      _ = ks := by rw [← acceptedRun_out, hwhole]

end Sys2Proof.Proofs

namespace Sys2Proof.Machine

open Sys2Proof.Claims

/-! ## Every step and every instruction is total (R140) -/

theorem exec_total (i : Instr) (s : State) : ∃ t, exec i s = .next t := by
  obtain ⟨j, t, -, hp, -⟩ := proceed_cases s
  cases i with
  | idle | done | error => exact ⟨s, rfl⟩
  | init => exact ⟨_, exec_init s⟩
  | loadKc => exact ⟨_, exec_loadKc s⟩
  | loadFn => exact ⟨_, exec_loadFn s⟩
  | warmup => exact ⟨_, exec_warmup s⟩
  | keystream => exact ⟨_, exec_keystream s⟩
  | reset b => exact ⟨_, exec_reset b s⟩
  | hostNone => exact ⟨t, hp⟩
  | start =>
    by_cases hb : busy s = true
    · exact ⟨t, (exec_start_busy hb).trans hp⟩
    · exact ⟨_, exec_start_ready (Bool.eq_false_iff.mpr hb)⟩

theorem step_total (s : State) : ∃ t, step s = .next t := by
  obtain ⟨t, h⟩ := exec_total (fetch s) s
  exact ⟨t.advanceInputs, by rw [step, h, afterEdge]⟩

theorem core_run_total (k : Nat) (s : State) : ∃ t : State, Host.Core.run core k s = .next t := by
  induction k generalizing s with
  | zero => exact ⟨s, rfl⟩
  | succ k ih =>
    obtain ⟨u, hstep⟩ := step_total s
    obtain ⟨t, hrun⟩ := ih u
    exact ⟨t, (core_run_succ (M := core) hstep k).trans hrun⟩

/-! ## The instruction whose code SEQ holds (R60, R130) -/

/-- The code of a sequencer state decodes to the one instruction of format M that has it. -/
theorem decode_seqCode (q : Seq) : ∃ j : Instr, j.seq? = some q ∧ decode .m q.code.toNat = .ok j := by
  cases q
  exacts [⟨.idle, rfl, decode_encode .idle⟩, ⟨.init, rfl, decode_encode .init⟩, ⟨.loadKc, rfl, decode_encode .loadKc⟩,
    ⟨.loadFn, rfl, decode_encode .loadFn⟩, ⟨.warmup, rfl, decode_encode .warmup⟩,
    ⟨.keystream, rfl, decode_encode .keystream⟩, ⟨.done, rfl, decode_encode .done⟩,
    ⟨.error, rfl, decode_encode .error⟩]

/-- The instruction that the code in SEQ decodes to is what the sequencer runs, and it gives a next state. -/
theorem proceed_of_decode {s : State} {i : Instr} (h : decode .m s.seq.code.toNat = .ok i) :
    ∃ t, exec i s = .next t ∧ proceed s = .next t := by
  obtain ⟨j, hj, hdecode⟩ := decode_seqCode s.seq
  rw [h] at hdecode
  cases hdecode
  obtain ⟨t, ht⟩ := exec_total i s
  exact ⟨t, ht, (proceed_of_seq hj).trans ht⟩

/-- A waiting state proceeds to itself (R136). -/
theorem proceed_of_not_busy {s : State} (hb : busy s = false) : proceed s = .next s := by
  obtain ⟨j, t, hj, hp, he⟩ := proceed_cases s
  rwa [exec_eq_self_of_no_phase hj hb he] at hp

/-! ## The ports and the registers that an instruction does not look at -/

theorem countTo_withPorts (s : State) (last : Count) (q : Seq) (p : Ports) :
    State.countTo last q { s with ports := p } = { s.countTo last q with ports := p } := by
  unfold State.countTo
  split <;> rfl

/-- No instruction of format M looks at the ports: with other inputs it gives the same state but for those inputs (R137). -/
theorem exec_microOp_withPorts {j : Instr} {s t : State} (hj : j.seq?.isSome = true) (h : exec j s = .next t) (p : Ports) :
    exec j { s with ports := p } = .next { t with ports := p } := by
  cases j with
  | reset _ | start | hostNone => cases hj
  | idle | done | error => cases h; rfl
  | init => cases h; rfl
  | loadKc => rw [exec_loadKc] at h ⊢; cases h; rw [← countTo_withPorts]; rfl
  | loadFn => rw [exec_loadFn] at h ⊢; cases h; rw [← countTo_withPorts]; rfl
  | warmup => rw [exec_warmup] at h ⊢; cases h; rw [← countTo_withPorts]; rfl
  | keystream => rw [exec_keystream] at h ⊢; cases h; rw [← countTo_withPorts]; rfl

/-- Two states that an accepted START takes to the same state but for X, Y and Z (R122). -/
theorem acceptStart_congr {s u : State} (hp : u.ports = s.ports) (hl : u.later = s.later) :
    u.acceptStart.advanceInputs = s.acceptStart.advanceInputs.withCipher u.cipher := by
  simp only [State.acceptStart, State.advanceInputs, hp, hl]
  cases s.later <;> rfl

/-- At INIT an edge does not look at X, Y and Z: RESET and INIT both zero them (R100, R200). -/
theorem step_withCipher_of_init {s : State} (hq : s.seq = .init) (c : Cipher) : step (s.withCipher c) = step s := by
  by_cases hr : s.ports.rst = true
  · rw [step_of_rst hr, step_of_rst (s := s.withCipher c) hr]
    rfl
  · have hr : s.ports.rst = false := Bool.eq_false_iff.mpr hr
    have hb : busy s = true := (busy_iff s).mpr (.inl hq)
    have hinit : Instr.seq? .init = some s.seq := by rw [hq]; rfl
    rw [step_of_proceed hr (.inr hb), step_of_proceed (s := s.withCipher c) hr (.inr hb), proceed_of_seq hinit,
      proceed_of_seq (s := s.withCipher c) hinit]
    rfl

/-! ## The listing of a run (R71, R141) -/

theorem stepsTo_eq_range' (n : Nat) : stepsTo n = List.range' 1 n := by
  rw [stepsTo, List.range'_eq_map_range]
  simp only [Nat.add_comm]

theorem loadSteps_map_listedOf (ph : Phase) (src : InSrc) (bit : Nat → Bool) (n s : Nat) (c : Cipher) :
    (loadSteps ph src bit n s c).2.map listedOf =
      (List.range' s n).map fun k => { phase := ph, step := k, input := some (src, bit k) } := by
  induction n generalizing s c with
  | zero => rfl
  | succ n ih => simp only [loadSteps, List.map_cons, ih, List.range'_succ]; rfl

theorem warmupSteps_map_listedOf (n s : Nat) (c : Cipher) :
    (warmupSteps n s c).2.map listedOf =
      (List.range' s n).map fun k => { phase := .warmup, step := k, input := none } := by
  induction n generalizing s c with
  | zero => rfl
  | succ n ih => simp only [warmupSteps, List.map_cons, ih, List.range'_succ]; rfl

theorem keystreamSteps_map_listedOf (n s : Nat) (c : Cipher) :
    (keystreamSteps n s c).2.map listedOf =
      (List.range' s n).map fun k => { phase := .keystream, step := k, input := none } := by
  induction n generalizing s c with
  | zero => rfl
  | succ n ih => simp only [keystreamSteps, List.map_cons, ih, List.range'_succ]; rfl

/-- The records of a run are, in order, those of the micro-operations listed. -/
theorem acceptedRun_map_listedOf (key frame w n : Nat) :
    (acceptedRun key frame w n).2.map listedOf = expandRun key frame w n := by
  simp only [acceptedRun, expandRun, List.map_cons, List.map_append, loadSteps_map_listedOf, warmupSteps_map_listedOf,
    keystreamSteps_map_listedOf, stepsTo_eq_range', List.append_assoc]
  rfl

theorem listing_of_run_ok {c : RunConfig} {ks : List Bool} {trace : List StepRecord} (h : run c = .ok ks trace) :
    listing c = expandRun c.key c.frame c.warmupCycles.toNat c.keystreamBits.toNat := by
  simp only [listing, validate_of_run_ok h]

end Sys2Proof.Machine

namespace Sys2Proof.Proofs

open Sys2Proof.Machine Sys2Proof.Claims

/-- Settles O20. -/
theorem loadKcCountsSixteenSteps : Obligations.LoadKcCountsSixteenSteps := fun s =>
  ⟨_, exec_loadKc s, exec_loadKc_countsTo (exec_loadKc s)⟩

/-- Settles O21: `nextAfterLoad` is where the step after the last one goes, by the two counts. -/
theorem loadFnCountsEightStepsAndSkipsEmptyPhases : Obligations.LoadFnCountsEightStepsAndSkipsEmptyPhases := by
  intro s
  obtain ⟨t, h⟩ := exec_total .loadFn s
  have hcounts := exec_loadFn_countsTo h
  refine ⟨t, h, fun hw => ?_, fun hw hn => ?_, fun hw hn => ?_⟩
  · rwa [nextAfterLoad_of_pos _ hw] at hcounts
  · rwa [nextAfterLoad_of_toNat_zero _ hw, nextAfterWarmup_of_pos hn] at hcounts
  · rwa [nextAfterLoad_of_toNat_zero _ hw, nextAfterWarmup_of_toNat_zero hn] at hcounts

/-- Settles O22: `nextAfterWarmup` is where the step after the last one goes, by NCNT. -/
theorem warmupCountsToWcnt : Obligations.WarmupCountsToWcnt := by
  intro s
  obtain ⟨t, h⟩ := exec_total .warmup s
  have hcounts := exec_warmup_countsTo h
  refine ⟨t, h, fun hn => ?_, fun hn => ?_⟩
  · rwa [nextAfterWarmup_of_pos hn] at hcounts
  · rwa [nextAfterWarmup_of_toNat_zero hn] at hcounts

/-- Settles O23. -/
theorem keystreamCountsToNcnt : Obligations.KeystreamCountsToNcnt := fun s =>
  ⟨_, exec_keystream s, exec_keystream_countsTo (exec_keystream s)⟩

/-- Settles O25: the edge lets the sequencer proceed, and a waiting state proceeds to itself. -/
theorem onlyStartOrResetLeavesAWaitingState : Obligations.OnlyStartOrResetLeavesAWaitingState := by
  intro s hq hr hs
  rw [step_of_proceed hr (.inl hs), proceed_of_not_busy ((not_busy_iff s).mpr hq), afterEdge, nextInputs_eq_advanceInputs]

/-- Settles O27: `Validate` accepts the legal words, and `acceptStart` latches their low bits. -/
theorem acceptedStartLatchesTheConfiguration : Obligations.AcceptedStartLatchesTheConfiguration := by
  intro s hb hlegal
  rw [exec_start_ready hb, honourStart_of_validate_ok ((validate_config_ok_iff s.ports).mpr hlegal), State.acceptStart,
    keyField_eq_ofNat, frameField_eq_ofNat, countField_eq_ofNat, countField_eq_ofNat]

/-- Settles O30: NONE and an ignored START both let the sequencer proceed, which does not look at the ports. -/
theorem startWhileBusyIsIgnored : Obligations.StartWhileBusyIsIgnored := by
  intro s hb
  obtain ⟨j, t, hj, hp, he⟩ := proceed_cases s
  refine ⟨t, hp, (exec_start_busy hb).trans hp, fun p => ?_⟩
  rw [exec_start_busy (s := { s with ports := p }) hb, proceed_of_seq (s := { s with ports := p }) hj]
  exact exec_microOp_withPorts (by rw [hj]; rfl) he p

/-- Settles O35. -/
theorem everyStepAndInstructionCompletes : Obligations.EveryStepAndInstructionCompletes := ⟨step_total, exec_total⟩

/-- Settles O47: the records of each phase are the listed micro-operations of that phase. -/
theorem runHasTheListedRecords : Obligations.RunHasTheListedRecords := by
  intro c ks trace h
  obtain ⟨rfl, rfl⟩ := Prod.mk.inj (run_ok_eq h)
  exact ⟨(keystreamSteps_length _ _ _).1, acceptedRun_length _ _ _ _,
    (acceptedRun_map_listedOf _ _ _ _).trans (listing_of_run_ok h).symm⟩

/-- Settles O51: an accepted START leaves no difference but in X, Y and Z, and the next edge, INIT or RESET, zeroes those. -/
theorem runDoesNotDependOnTheStateBefore : Obligations.RunDoesNotDependOnTheStateBefore := by
  intro s u hs hlegal hbusy hports hlater k
  have hu : u.startsNow := by rw [State.startsNow, hports]; exact ⟨hs.1, hs.2.1, hbusy⟩
  have hv := (validate_config_ok_iff s.ports).mpr hlegal
  have hstep : step s = .next s.acceptStart.advanceInputs := by
    rw [step_of_start hs, honourStart_of_validate_ok hv]
  have hstep' : step u = .next (s.acceptStart.advanceInputs.withCipher u.cipher) := by
    rw [step_of_start hu, honourStart_of_validate_ok (by rwa [hports]), acceptStart_congr hports hlater]
  obtain ⟨v, hinit⟩ := step_total s.acceptStart.advanceInputs
  have hinit' : step (s.acceptStart.advanceInputs.withCipher u.cipher) = .next v := by
    rw [step_withCipher_of_init (by simp), hinit]
  obtain ⟨t, hrun⟩ := core_run_total k v
  rw [Nat.add_comm 2 k]
  refine ⟨t, ?_, ?_⟩
  · rw [core_run_succ (M := core) hstep, core_run_succ (M := core) hinit, hrun]
  · rw [core_run_succ (M := core) hstep', core_run_succ (M := core) hinit', hrun]

/-- Settles O24. -/
theorem waitingStatesKeepEverything : Obligations.WaitingStatesKeepEverything := fun s =>
  ⟨exec_idle s, exec_done s, exec_error s⟩

/-- Settles O26: the instruction that SEQ's code decodes to is the one the sequencer runs. -/
theorem noneRunsTheMicroOperationOfSeq : Obligations.NoneRunsTheMicroOperationOfSeq := fun _ _ hdecode =>
  proceed_of_decode hdecode

/-- Settles O34: without RESET and an honoured START the edge lets the sequencer proceed. -/
theorem stepRunsTheMicroOperationOfSeq : Obligations.StepRunsTheMicroOperationOfSeq := by
  intro s i hr hs hdecode
  obtain ⟨t, hexec, hp⟩ := proceed_of_decode hdecode
  exact ⟨t, hexec, by rw [step_of_proceed hr hs, hp, afterEdge, nextInputs_eq_advanceInputs]⟩

end Sys2Proof.Proofs

/-! # The Step Record, its binary form and its text: the statements of spec/43_trace.md -/

namespace Sys2Proof

/-! ## Reading and joining the fields of a 91-bit word -/

/-- A field is read back from its own bits. -/
theorem extract_fieldAt_same {n lo : Nat} (v : BitVec n) (h : lo + n ≤ 91) : (fieldAt lo v).extractLsb' lo n = v := by
  refine BitVec.eq_of_getLsbD_eq fun i hi => ?_
  rw [BitVec.getLsbD_extractLsb', fieldAt_inside v (by omega) (by omega), Nat.add_sub_cancel_left]
  simp [hi]

/-- A field contributes nothing to the bits of another. -/
theorem extract_fieldAt_disjoint {n m lo lo' : Nat} (v : BitVec m) (h : lo + n ≤ lo' ∨ lo' + m ≤ lo) :
    (fieldAt lo' v).extractLsb' lo n = 0#n := by
  refine BitVec.eq_of_getLsbD_eq fun i hi => ?_
  rw [BitVec.getLsbD_extractLsb', BitVec.getLsbD_zero]
  rcases h with h | h
  · rw [fieldAt_below v (by omega), Bool.and_false]
  · rw [fieldAt_above v (by omega), Bool.and_false]

/-- A field cut from a word and put back holds the word's bits in its range. -/
theorem fieldAt_extract_getLsbD (w : RecWord) (lo n i : Nat) :
    (fieldAt lo (w.extractLsb' lo n)).getLsbD i = (decide (lo ≤ i ∧ i < lo + n) && w.getLsbD i) := by
  rw [fieldAt_getLsbD, BitVec.getLsbD_extractLsb']
  by_cases hlo : lo ≤ i
  · have hin : i - lo < n ↔ i < lo + n := by omega
    rw [Nat.add_sub_cancel' hlo]
    by_cases hi : i < 91
    · simp only [hi, hlo, hin, decide_true, true_and, Bool.true_and]
    · rw [BitVec.getLsbD_of_ge w i (by omega)]
      simp only [Bool.and_false]
  · simp only [hlo, decide_false, false_and, Bool.and_false, Bool.false_and]

/-- Two fields of a word that are side by side are one field of it. -/
theorem fieldAt_or_fieldAt_next {n m lo lo' : Nat} (w : RecWord) (h : lo' = lo + n) :
    fieldAt lo (w.extractLsb' lo n) ||| fieldAt lo' (w.extractLsb' lo' m) = fieldAt lo (w.extractLsb' lo (n + m)) := by
  refine BitVec.eq_of_getLsbD_eq fun i _ => ?_
  have hrange : lo ≤ i ∧ i < lo + (n + m) ↔ (lo ≤ i ∧ i < lo + n) ∨ (lo' ≤ i ∧ i < lo' + m) := by omega
  rw [BitVec.getLsbD_or, fieldAt_extract_getLsbD, fieldAt_extract_getLsbD, fieldAt_extract_getLsbD,
    ← Bool.and_or_distrib_right, decide_eq_decide.mpr hrange, Bool.decide_or]

/-- The field of all 91 bits is the word. -/
theorem fieldAt_zero_extract (w : RecWord) : fieldAt 0 (w.extractLsb' 0 91) = w := by
  rw [BitVec.extractLsb'_eq_self, fieldAt, BitVec.setWidth_eq, BitVec.shiftLeft_zero]

@[simp] theorem bit1_getLsbD_zero (b : Bool) : (bit1 b).getLsbD 0 = b := by cases b <;> rfl

/-- A 1-bit field of a word is its bit there. -/
theorem bit1_getLsbD {n : Nat} (w : BitVec n) (i : Nat) : bit1 (w.getLsbD i) = w.extractLsb' i 1 := by
  refine BitVec.eq_of_getLsbD_eq fun k hk => ?_
  obtain rfl : k = 0 := by omega
  simp [-BitVec.getLsbD_eq_getElem]

theorem getLsbD_of_extract {n : Nat} {w : BitVec n} {i : Nat} {b : Bool} (h : w.extractLsb' i 1 = bit1 b) :
    w.getLsbD i = b := by
  have hbit := congrArg (BitVec.getLsbD · 0) ((bit1_getLsbD w i).trans h)
  simpa only [bit1_getLsbD_zero] using hbit

/-! ## An optional bit as a valid bit and a value bit (R160) -/

/-- The two bits are those of the optional bit: the value bit is 0 when it is NA. -/
structure OptBitIs (valid value : Bool) (o : Option Bool) : Prop where
  valid : valid = o.isSome
  value : value = o.getD false

theorem OptBitIs.optBit_eq {valid value : Bool} {o : Option Bool} (h : OptBitIs valid value o) : optBit valid value = o := by
  obtain ⟨rfl, rfl⟩ := h
  cases o <;> rfl

theorem OptBitIs.clear {valid value : Bool} {o : Option Bool} (h : OptBitIs valid value o) :
    (valid || !value) = true := by
  obtain ⟨rfl, rfl⟩ := h
  cases o <;> rfl

theorem optBitIs_optBit {valid value : Bool} (h : (valid || !value) = true) :
    OptBitIs valid value (optBit valid value) :=
  ⟨(optBit_of_clear h).1.symm, (optBit_of_clear h).2.symm⟩

/-- The two bits read at their places, under the valid bit of a field `p` that is NA together with `o`. -/
theorem OptBitIs.of_extract {w : RecWord} {v k : Nat} {o p : Option Bool} (hvalid : w.extractLsb' v 1 = validBit p)
    (hvalue : w.extractLsb' k 1 = valueBit o) (h : o.isSome = p.isSome) : OptBitIs (w.getLsbD v) (w.getLsbD k) o :=
  ⟨(getLsbD_of_extract hvalid).trans h.symm, getLsbD_of_extract hvalue⟩

theorem OptBitIs.validBit_eq {w : RecWord} {v : Nat} {value : Bool} {o : Option Bool}
    (h : OptBitIs (w.getLsbD v) value o) : validBit o = w.extractLsb' v 1 := by
  rw [validBit, ← h.valid, bit1_getLsbD]

theorem OptBitIs.valueBit_eq {w : RecWord} {k : Nat} {valid : Bool} {o : Option Bool}
    (h : OptBitIs valid (w.getLsbD k) o) : valueBit o = w.extractLsb' k 1 := by
  rw [valueBit, ← h.value, bit1_getLsbD]

/-! ## Codes there and back (R60, R153) -/

theorem phaseOfCode_code (ph : Phase) : phaseOfCode ph.seq.code = some ph := by cases ph <;> rfl

theorem inSrcOfCode_code (o : Option InSrc) : inSrcOfCode (inSrcCode o) = o := by rcases o with _ | _ | _ <;> rfl

/-- Code 3 is never produced. -/
theorem inSrcCode_ne_reserved (o : Option InSrc) : inSrcCode o ≠ 3#2 := by rcases o with _ | _ | _ <;> decide

theorem inSrcCode_bne_zero (o : Option InSrc) : (inSrcCode o != 0#2) = o.isSome := by rcases o with _ | _ | _ <;> rfl

theorem inSrcCode_inSrcOfCode {c : BitVec 2} (h : c ≠ 3#2) : inSrcCode (inSrcOfCode c) = c := by
  revert c
  decide

/-! ## The fields of a well-formed record that are NA together (R152) -/

/-- Well-formedness column by column. -/
theorem StepRecord.wf_iff (r : StepRecord) :
    r.wf = true ↔ r.stepOk = true ∧ r.inputOk = true ∧ r.fbOk = true ∧ r.ckOk = true ∧ r.majOk = true ∧
      r.injOk = true ∧ r.outOk = true := by
  simp only [StepRecord.wf, Bool.and_eq_true, and_assoc]

theorem inBit_isSome_of_wf {r : StepRecord} (h : r.wf = true) : r.inBit.isSome = r.inSrc.isSome := by
  obtain ⟨-, hin, -⟩ := r.wf_iff.mp h
  unfold StepRecord.inputOk at hin
  split at hin <;> simp_all

theorem fb_isSome_of_wf {r : StepRecord} (h : r.wf = true) :
    r.fbY.isSome = r.fbX.isSome ∧ r.fbZ.isSome = r.fbX.isSome := by
  obtain ⟨-, -, hfb, -⟩ := r.wf_iff.mp h
  unfold StepRecord.fbOk at hfb
  split at hfb <;> simp_all

theorem ck_isSome_of_wf {r : StepRecord} (h : r.wf = true) :
    r.ckY.isSome = r.ckX.isSome ∧ r.ckZ.isSome = r.ckX.isSome := by
  obtain ⟨-, -, -, hck, -⟩ := r.wf_iff.mp h
  unfold StepRecord.ckOk at hck
  split at hck <;> simp_all

/-! ## The layout of a record: what `packRecord` writes and `unpackRecord` reads (R160) -/

/-- Each field of the record is at the bits where R160 lists it. -/
structure HasLayout (w : RecWord) (r : StepRecord) : Prop where
  phase : w.extractLsb' 0 3 = r.phase.seq.code
  step  : (w.extractLsb' 3 31).toNat = r.step
  inSrc : w.extractLsb' 34 2 = inSrcCode r.inSrc
  inBit : OptBitIs (w.extractLsb' 34 2 != 0#2) (w.getLsbD 36) r.inBit
  preX  : w.extractLsb' 37 5 = r.preX
  preY  : w.extractLsb' 42 6 = r.preY
  preZ  : w.extractLsb' 48 7 = r.preZ
  fbX   : OptBitIs (w.getLsbD 55) (w.getLsbD 56) r.fbX
  fbY   : OptBitIs (w.getLsbD 55) (w.getLsbD 57) r.fbY
  fbZ   : OptBitIs (w.getLsbD 55) (w.getLsbD 58) r.fbZ
  ckX   : OptBitIs (w.getLsbD 59) (w.getLsbD 60) r.ckX
  ckY   : OptBitIs (w.getLsbD 59) (w.getLsbD 61) r.ckY
  ckZ   : OptBitIs (w.getLsbD 59) (w.getLsbD 62) r.ckZ
  maj   : OptBitIs (w.getLsbD 63) (w.getLsbD 64) r.maj
  injX  : OptBitIs (w.getLsbD 65) (w.getLsbD 66) r.injX
  injY  : OptBitIs (w.getLsbD 67) (w.getLsbD 68) r.injY
  injZ  : OptBitIs (w.getLsbD 69) (w.getLsbD 70) r.injZ
  postX : w.extractLsb' 71 5 = r.postX
  postY : w.extractLsb' 76 6 = r.postY
  postZ : w.extractLsb' 82 7 = r.postZ
  out   : OptBitIs (w.getLsbD 89) (w.getLsbD 90) r.out

/-- The packed record has the layout: a read finds the one field that is there, and 0 from all the others. -/
theorem hasLayout_packRecord {r : StepRecord} (hwf : r.wf = true) (hstep : r.step < 2 ^ 31) :
    HasLayout (packRecord r) r := by
  obtain ⟨hfbY, hfbZ⟩ := fb_isSome_of_wf hwf
  obtain ⟨hckY, hckZ⟩ := ck_isSome_of_wf hwf
  have hcount : (BitVec.ofNat 31 r.step).toNat = r.step := by rw [BitVec.toNat_ofNat, Nat.mod_eq_of_lt hstep]
  have hsrc : (packRecord r).extractLsb' 34 2 = inSrcCode r.inSrc := ?src
  refine
    { inSrc := hsrc
      step := (congrArg BitVec.toNat ?step).trans hcount
      inBit := ⟨by rw [hsrc, inSrcCode_bne_zero, inBit_isSome_of_wf hwf], getLsbD_of_extract ?inBit⟩
      phase := ?_, preX := ?_, preY := ?_, preZ := ?_, postX := ?_, postY := ?_, postZ := ?_
      fbX := .of_extract ?_ ?_ rfl, fbY := .of_extract ?_ ?_ hfbY, fbZ := .of_extract ?_ ?_ hfbZ
      ckX := .of_extract ?_ ?_ rfl, ckY := .of_extract ?_ ?_ hckY, ckZ := .of_extract ?_ ?_ hckZ
      maj := .of_extract ?_ ?_ rfl, out := .of_extract ?_ ?_ rfl
      injX := .of_extract ?_ ?_ rfl, injY := .of_extract ?_ ?_ rfl, injZ := .of_extract ?_ ?_ rfl }
  all_goals
    simp only [packRecord, BitVec.extractLsb'_or, extract_fieldAt_same, extract_fieldAt_disjoint, Nat.reduceLeDiff,
      Nat.reduceAdd, BitVec.or_zero, BitVec.zero_or, or_true, true_or, valueBit]

theorem packRecord_getLsbD_out (r : StepRecord) : (packRecord r).getLsbD 90 = r.out.getD false := by
  apply getLsbD_of_extract
  simp only [packRecord, BitVec.extractLsb'_or, extract_fieldAt_same, extract_fieldAt_disjoint, Nat.reduceLeDiff,
    Nat.reduceAdd, BitVec.zero_or, or_true, valueBit]

/-- A word with the layout of a record is its packed form: side by side, the fields make up all 91 bits. -/
theorem HasLayout.packRecord_eq {w : RecWord} {r : StepRecord} (h : HasLayout w r) : packRecord r = w := by
  have hstep : BitVec.ofNat 31 r.step = w.extractLsb' 3 31 := by rw [← h.step, BitVec.ofNat_toNat, BitVec.setWidth_eq]
  unfold packRecord
  rw [← h.phase, hstep, ← h.inSrc, h.inBit.valueBit_eq, ← h.preX, ← h.preY, ← h.preZ, h.fbX.validBit_eq, h.fbX.valueBit_eq,
    h.fbY.valueBit_eq, h.fbZ.valueBit_eq, h.ckX.validBit_eq, h.ckX.valueBit_eq, h.ckY.valueBit_eq, h.ckZ.valueBit_eq,
    h.maj.validBit_eq, h.maj.valueBit_eq, h.injX.validBit_eq, h.injX.valueBit_eq, h.injY.validBit_eq, h.injY.valueBit_eq,
    h.injZ.validBit_eq, h.injZ.valueBit_eq, ← h.postX, ← h.postY, ← h.postZ, h.out.validBit_eq, h.out.valueBit_eq]
  simp only [fieldAt_or_fieldAt_next, Nat.reduceAdd]
  exact fieldAt_zero_extract w

theorem naBitsClear_iff (w : RecWord) :
    naBitsClear w = true ↔
      (∀ p ∈ validValuePairs, (w.getLsbD p.1 || !w.getLsbD p.2) = true) ∧
      (w.extractLsb' 34 2 != 0#2 || !w.getLsbD 36) = true := by
  rw [naBitsClear, Bool.and_eq_true, List.all_eq_true]

theorem HasLayout.naBitsClear {w : RecWord} {r : StepRecord} (h : HasLayout w r) : naBitsClear w = true := by
  rw [naBitsClear_iff]
  refine ⟨?_, h.inBit.clear⟩
  simp only [validValuePairs, List.forall_mem_cons]
  exact ⟨h.fbX.clear, h.fbY.clear, h.fbZ.clear, h.ckX.clear, h.ckY.clear, h.ckZ.clear, h.maj.clear, h.injX.clear,
    h.injY.clear, h.injZ.clear, h.out.clear, List.forall_mem_nil _⟩

theorem HasLayout.recordFields_eq {w : RecWord} {r : StepRecord} (h : HasLayout w r) : recordFields r.phase w = r := by
  have hsrc : inSrcOfCode (w.extractLsb' 34 2) = r.inSrc := by rw [h.inSrc, inSrcOfCode_code]
  simp only [recordFields, h.step, hsrc, h.inBit.optBit_eq, h.preX, h.preY, h.preZ, h.fbX.optBit_eq,
    h.fbY.optBit_eq, h.fbZ.optBit_eq, h.ckX.optBit_eq, h.ckY.optBit_eq, h.ckZ.optBit_eq, h.maj.optBit_eq, h.injX.optBit_eq,
    h.injY.optBit_eq, h.injZ.optBit_eq, h.postX, h.postY, h.postZ, h.out.optBit_eq]

/-- A word that passes the decoder's checks has the layout of the fields read from it. -/
theorem hasLayout_recordFields {w : RecWord} {ph : Phase} (hph : phaseOfCode (w.extractLsb' 0 3) = some ph)
    (hsrc : w.extractLsb' 34 2 ≠ 3#2) (hna : naBitsClear w = true) : HasLayout w (recordFields ph w) := by
  obtain ⟨hpairs, hin⟩ := (naBitsClear_iff w).mp hna
  have hbits : ∀ p ∈ validValuePairs, OptBitIs (w.getLsbD p.1) (w.getLsbD p.2) (optBit (w.getLsbD p.1) (w.getLsbD p.2)) :=
    fun p hp => optBitIs_optBit (hpairs p hp)
  simp only [validValuePairs, List.forall_mem_cons] at hbits
  obtain ⟨fbX, fbY, fbZ, ckX, ckY, ckZ, maj, injX, injY, injZ, out, -⟩ := hbits
  exact { fbX, fbY, fbZ, ckX, ckY, ckZ, maj, injX, injY, injZ, out
          phase := (seqCode_of_phaseOfCode hph).symm
          inSrc := (inSrcCode_inSrcOfCode hsrc).symm
          inBit := optBitIs_optBit hin
          step := rfl, preX := rfl, preY := rfl, preZ := rfl, postX := rfl, postY := rfl, postZ := rfl }

/-- The decoder accepts a word as a record exactly when the record is well formed and the word has its layout. -/
theorem unpackRecord_eq_ok_iff {w : RecWord} {r : StepRecord} :
    unpackRecord w = .ok r ↔ HasLayout w r ∧ r.wf = true := by
  unfold unpackRecord
  constructor
  · intro h
    split at h
    next => cases h
    next ph hph =>
      split_ifs at h with hsrc hna hwf
      cases h
      exact ⟨hasLayout_recordFields hph hsrc hna, hwf⟩
  · rintro ⟨h, hwf⟩
    simp only [h.phase, phaseOfCode_code, h.inSrc, inSrcCode_ne_reserved, h.naBitsClear, h.recordFields_eq, hwf,
      if_true, if_false]

end Sys2Proof

namespace Sys2Proof.Machine

open Sys2Proof.Claims

/-! ## The statements' words for the fields of the binary record -/

theorem optBitIs_iff {valid value : Bool} {o : Option Bool} :
    OptBitIs valid value o ↔ valid = o.isSome ∧ (∀ b, o = some b → value = b) ∧ (o = none → value = false) := by
  refine ⟨fun ⟨hvalid, hvalue⟩ => ?_, fun ⟨hvalid, hsome, hnone⟩ => ⟨hvalid, ?_⟩⟩
  · subst hvalue
    exact ⟨hvalid, by rintro b rfl; rfl, by rintro rfl; rfl⟩
  · cases o with
    | none => exact hnone rfl
    | some b => exact hsome b rfl

theorem optBitsAt_iff {w : RecWord} {v : Nat} {fields : List (Nat × Option Bool)} :
    OptBitsAt w v fields ↔ ∀ f ∈ fields, OptBitIs (w.getLsbD v) (w.getLsbD f.1) f.2 := by
  simp only [OptBitsAt, optBitIs_iff]

theorem optBitsAt_one {w : RecWord} {v k : Nat} {o : Option Bool} (h : OptBitIs (w.getLsbD v) (w.getLsbD k) o) :
    OptBitsAt w v [(k, o)] := by
  simpa only [optBitsAt_iff, List.forall_mem_singleton] using h

theorem optBitsAt_three {w : RecWord} {v k l m : Nat} {o p q : Option Bool} (ho : OptBitIs (w.getLsbD v) (w.getLsbD k) o)
    (hp : OptBitIs (w.getLsbD v) (w.getLsbD l) p) (hq : OptBitIs (w.getLsbD v) (w.getLsbD m) q) :
    OptBitsAt w v [(k, o), (l, p), (m, q)] := by
  simp only [optBitsAt_iff, List.forall_mem_cons]
  exact ⟨ho, hp, hq, List.forall_mem_nil _⟩

/-- The record and the bit of a KEYSTREAM cycle. -/
theorem outputs_of_keystream {s : State} (hq : s.seq = .keystream) :
    (outputs s).traceRec = packRecord (irrRecord .keystream s.step.toNat s.cipher (some (keystreamBit s.cipher))) ∧
    (outputs s).ksBit = keystreamBit s.cipher := by
  simp [currentRecord, currentBit, hq]

/-! ## What becomes of TRACE (R155, R156) -/

/-- An instruction of format M keeps TRACE or appends one record to it. -/
theorem exec_microOp_trace {j : Instr} {s t : State} (hj : j.seq?.isSome = true) (h : exec j s = .next t) :
    t.trace = s.trace ∨ ∃ r, t.trace = s.trace ++ [r] := by
  cases j with
  | reset _ | start | hostNone => cases hj
  | idle | done | error => cases h; exact .inl rfl
  | init => cases h; exact .inr ⟨_, rfl⟩
  | loadKc => cases h; exact .inr ⟨_, State.countTo_trace _ _ _⟩
  | loadFn => cases h; exact .inr ⟨_, State.countTo_trace _ _ _⟩
  | warmup => cases h; exact .inr ⟨_, State.countTo_trace _ _ _⟩
  | keystream => cases h; exact .inr ⟨_, State.countTo_trace _ _ _⟩

/-- An honoured START empties TRACE when accepted (R122) and keeps it when rejected (R173). -/
theorem honourStart_trace (s : State) : s.honourStart.trace = [] ∨ s.honourStart.trace = s.trace := by
  rcases honourStart_cases s with ⟨_, h⟩ | ⟨e, _, h⟩
  · exact .inl (by rw [h, State.acceptStart_trace])
  · exact .inr (by rw [h, State.raiseConfig_trace])

/-! ## The cells of a row of the tabular text (R158, R159) -/

theorem bitCell_optText (mark : List Char) (o : Option Bool) : BitCell mark o (some (optText mark bitText o)) := by
  refine ⟨?_, ?_⟩
  · rintro rfl
    rfl
  · rintro b rfl
    rw [optText, bitText_eq]

theorem regCell_regText {n : Nat} (r : BitVec n) : RegCell r (some (regText r)) :=
  ⟨regText r, rfl, regText_length r, fun _ h => regText_getElem? r h⟩

theorem phaseText_eq_label (ph : Phase) : phaseText ph = (phaseLabel ph).toList := by cases ph <;> rfl

end Sys2Proof.Machine

namespace Sys2Proof.Proofs

open Sys2Proof.Machine Sys2Proof.Claims

/-- Settles O5: the packed record has the record's layout, and the decoder accepts every word with the layout of a well-formed
record as that record. -/
theorem unpackOfPackedRecordIsTheRecord : Obligations.UnpackOfPackedRecordIsTheRecord := fun _ hwf hstep =>
  unpackRecord_eq_ok_iff.mpr ⟨hasLayout_packRecord hwf hstep, hwf⟩

/-- Settles O4: the layout in the words of the statement; the port shows the record of the cycle, if there is one. -/
theorem packedRecordHasTheListedLayout : Obligations.PackedRecordHasTheListedLayout := by
  refine ⟨fun r hwf hstep => ?layout, fun s hv => ?traceZero, fun s hq => ?ksBit⟩
  case layout =>
    have h := hasLayout_packRecord hwf hstep
    have hinNA : r.inSrc = none → (packRecord r).getLsbD 36 = false := fun hsrc => by
      have hbit := inBit_isSome_of_wf hwf
      rw [hsrc, Option.isSome_none, Option.isSome_eq_false_iff, Option.isNone_iff_eq_none] at hbit
      rw [h.inBit.value, hbit, Option.getD_none]
    exact ⟨h.phase, h.step, h.inSrc, h.inBit.value, hinNA, h.preX, h.preY, h.preZ, optBitsAt_three h.fbX h.fbY h.fbZ,
      optBitsAt_three h.ckX h.ckY h.ckZ, optBitsAt_one h.maj, optBitsAt_one h.injX, optBitsAt_one h.injY,
      optBitsAt_one h.injZ, h.postX, h.postY, h.postZ, optBitsAt_one h.out⟩
  case traceZero => rw [outputs_traceRec, currentRecord_of_not_traceValid hv, Option.map_none, Option.getD_none]
  case ksBit =>
    obtain ⟨hrec, hbit⟩ := outputs_of_keystream hq
    rw [hrec, hbit, packRecord_getLsbD_out, irrRecord_out, Option.getD_some]

/-- Settles O6: an accepted word has the layout of its record, and only the packed form has. -/
theorem acceptedRecordWordPacksBack : Obligations.AcceptedRecordWordPacksBack := by
  intro w r h
  obtain ⟨hlayout, hwf⟩ := unpackRecord_eq_ok_iff.mp h
  exact ⟨hwf, hlayout.step ▸ BitVec.isLt _, hlayout.packRecord_eq⟩

/-- Settles O41: RESET empties TRACE, an honoured START empties or keeps it, and every other instruction runs one of format M,
which keeps it or appends one record. -/
theorem traceIsAppendOnly : Obligations.TraceIsAppendOnly := by
  intro i s t h
  rcases exec_cases h with ⟨b, rfl, rfl⟩ | ⟨rfl, hb, rfl⟩ | ⟨j, -, hj, hexec⟩
  · exact .inr ⟨State.clear_trace s, .inl ⟨b, rfl⟩⟩
  · rcases honourStart_trace s with htrace | htrace
    · exact .inr ⟨htrace, .inr ⟨rfl, hb⟩⟩
    · exact .inl (by simp [htrace])
  · rcases exec_microOp_trace hj hexec with htrace | ⟨r, htrace⟩ <;> exact .inl (by simp [htrace])

/-- Settles O7: both records are computed and packed. -/
theorem packedWorkedExample : Obligations.PackedWorkedExample := ⟨by decide, by decide⟩

/-- Settles O52: each cell of the row is the text of its field. -/
theorem exportRowHasEveryColumn : Obligations.ExportRowHasEveryColumn := by
  rintro mark r row rfl
  have hsource : ∀ o, r.inSrc = o → (exportRowWith mark r)[2]? = some (optText mark srcText o) := by
    rintro _ rfl
    rfl
  have hbit := bitCell_optText mark
  exact ⟨rfl, rfl, congrArg some (phaseText_eq_label r.phase), rfl, hsource none, hsource (some .kc), hsource (some .fn),
    hbit r.inBit, regCell_regText r.preX, regCell_regText r.preY, regCell_regText r.preZ,
    hbit r.fbX, hbit r.fbY, hbit r.fbZ, hbit r.ckX, hbit r.ckY, hbit r.ckZ, hbit r.maj, hbit r.injX, hbit r.injY, hbit r.injZ,
    regCell_regText r.postX, regCell_regText r.postY, regCell_regText r.postZ, hbit r.out⟩

end Sys2Proof.Proofs

/-! # Exceptions: the statements of spec/60_exceptions.md -/

namespace Sys2Proof.Machine

/-! ## Which error `Validate` names (R170 to R174) -/

theorem validate_eq_valueTooWide_iff (c : RunConfig) :
    validate c = .error .valueTooWide ↔ 2 ^ 16 ≤ c.key ∨ 2 ^ 8 ≤ c.frame := by
  rw [← valueTooWide_iff]
  rcases validate_cases c with ⟨hw, hv⟩ | ⟨hw, -, hv⟩ | ⟨hw, -, hv⟩ <;> simp [hw, hv]

/-- The widths are tested first, so a bad count is named only when both widths are in range (R174). -/
theorem validate_eq_invalidCycleCount_iff (c : RunConfig) :
    validate c = .error .invalidCycleCount ↔
      c.key < 2 ^ 16 ∧ c.frame < 2 ^ 8 ∧ (c.warmupCycles < 0 ∨ c.keystreamBits < 0) := by
  have hchecks : validate c = .error .invalidCycleCount ↔ ¬ valueTooWide c = true ∧ invalidCycleCount c = true := by
    rcases validate_cases c with ⟨hw, hv⟩ | ⟨hw, hi, hv⟩ | ⟨hw, hi, hv⟩ <;> simp [*]
  rw [hchecks, valueTooWide_iff, invalidCycleCount_iff]
  omega

/-! ## A rejected START, and a run without exception (R173, R176) -/

theorem exec_start_rejected {s : State} {e : ConfigError} (hb : busy s = false)
    (h : validate s.ports.config = .error e) : exec .start s = .next (s.raiseConfig e) := by
  rw [exec_start_ready hb, honourStart_of_validate_error h]

theorem afterInit_iff (q : Seq) : AfterInit q ↔ q ≠ .idle ∧ q ≠ .init ∧ q ≠ .error := by
  cases q <;> simp [AfterInit]

end Sys2Proof.Machine

namespace Sys2Proof.Proofs

open Sys2Proof.Machine

/-- Settles O28: in both cases `Validate` names the error, and `raiseConfig` writes ERR and SEQ alone. -/
theorem rejectedStartWritesErrAndSeqOnly : Obligations.RejectedStartWritesErrAndSeqOnly := by
  intro s hb e hillegal
  have hv : validate s.ports.config = .error e := by
    rcases hillegal with ⟨rfl, hwide⟩ | ⟨rfl, hcounts⟩
    · exact (validate_eq_valueTooWide_iff _).mpr hwide
    · exact (validate_eq_invalidCycleCount_iff _).mpr hcounts
  have herr : e.errCode.code = if e = .valueTooWide then 1#2 else 2#2 := by cases e <;> rfl
  exact ⟨s.raiseConfig e, exec_start_rejected hb hv, rfl, rfl, herr, rfl, rfl⟩

/-- Settles O42: the edge runs the micro-operation of SEQ, which leads to LOAD_KC or a later state and keeps ERR. -/
theorem noExceptionDuringARun : Obligations.NoExceptionDuringARun := by
  intro s hb hr
  obtain ⟨j, t, hj, hp, hexec⟩ := proceed_cases s
  obtain ⟨hidle, -, herror⟩ := (afterInit_iff t.seq).mp (exec_afterInit hj hb hexec)
  obtain ⟨herr, -⟩ := exec_microOp_latchesKept (by rw [hj]; rfl) hexec
  refine ⟨t.advanceInputs, by rw [step_of_proceed hr (.inr hb), hp, afterEdge], ?_, ?_, ?_⟩
  · rwa [State.advanceInputs_seq]
  · rwa [State.advanceInputs_seq]
  · rwa [State.advanceInputs_err]

/-- Settles O48: one equivalence for each answer of `Validate`, and `Run` passes its error on. -/
theorem validateRejectsExactlyTheIllegalConfigurations :
    Obligations.ValidateRejectsExactlyTheIllegalConfigurations := fun c =>
  ⟨validate_ok_iff c, validate_eq_valueTooWide_iff c, validate_eq_invalidCycleCount_iff c, run_eq_error_iff c⟩

end Sys2Proof.Proofs

/-! # Reset and hazards: the statements of spec/70_reset_and_hazards.md -/

namespace Sys2Proof.Machine

/-- The records a run has emitted are the first ones of its whole trace. -/
theorem InRun.trace_eq_take {full : List StepRecord} {s : State} (h : InRun full s) :
    s.trace = full.take s.trace.length := by
  rw [← h.records, List.take_left]

/-- Moving the inputs on changes no state element: with the inputs put back it is the same state (R33). -/
theorem advanceInputs_withInputs (s : State) :
    { s.advanceInputs with ports := s.ports, later := s.later } = s := by
  unfold State.advanceInputs
  split <;> rfl

end Sys2Proof.Machine

namespace Sys2Proof.Proofs

open Sys2Proof.Machine

/-- Settles O46: `k` edges after the START edge the run has emitted `k` records, which are a prefix of its trace, and the invariant
makes KS their outputs. -/
theorem traceAfterEachEdgeIsAPrefixOfTheRun : Obligations.TraceAfterEachEdgeIsAPrefixOfTheRun := by
  intro s ks trace hs hno hrun k hk
  obtain ⟨t, hsteps, ht, hlength⟩ := run_of_start hs hno hrun hk
  have htrace : t.trace = trace.take k := hlength ▸ ht.trace_eq_take
  have hks : t.ks = t.trace.filterMap StepRecord.out := ht.inv.ks
  exact ⟨t, hsteps, htrace, htrace ▸ hks⟩

/-- Settles O31: RESET leads to the cleared state whatever `start` is, and after its edge only the inputs move on. -/
theorem resetClearsEveryStateElement : Obligations.ResetClearsEveryStateElement := fun s =>
  ⟨s.clear, rfl, fun b => exec_reset b s, fun hr =>
    ⟨s.clear.advanceInputs, step_of_rst hr, (advanceInputs_withInputs s.clear).symm⟩⟩

end Sys2Proof.Proofs

/-! # The result of a rejected START: spec/60_exceptions.md, R123 beside R173 (log entry 7) -/

namespace Sys2Proof.Machine

/-- In ERROR there is no result keystream, whatever KS holds (R123). -/
theorem resultKs_of_error {s : State} (h : s.seq = .error) : s.resultKs = [] := if_pos ((errorFlag_iff s).mpr h)

/-- In ERROR there is no result trace, whatever TRACE holds (R123). -/
theorem resultTrace_of_error {s : State} (h : s.seq = .error) : s.resultTrace = [] :=
  if_pos ((errorFlag_iff s).mpr h)

end Sys2Proof.Machine

namespace Sys2Proof.Proofs

open Sys2Proof.Machine

/-- Settles O29: a rejected START leads to ERROR, where the result is empty, and `raiseConfig` writes neither KS nor TRACE. -/
theorem rejectedStartHasAnEmptyResult : Obligations.RejectedStartHasAnEmptyResult := by
  intro s hb e hv
  have herror : (s.raiseConfig e).seq = .error := State.raiseConfig_seq s e
  exact ⟨s.raiseConfig e, exec_start_rejected hb hv, resultKs_of_error herror, resultTrace_of_error herror,
    State.raiseConfig_ks s e, State.raiseConfig_trace s e⟩

end Sys2Proof.Proofs
